-- ==== Sys2Proof/Word.lean ====
section
/-! DEFINITION. The widths of the block: bytes, 16-bit values and 32-bit command words (spec/00_scope.md R9). -/

namespace Sys2Proof

/-- A byte: 8 bits, unsigned (00_scope.md R9). -/
abbrev Byte := BitVec 8

/-- A "16-bit value" (00_scope.md R9): lengths, offsets and CRC values. -/
abbrev Half := BitVec 16

/-- A 32-bit command or argument word (30_encoding.md R80). -/
abbrev Word := BitVec 32

end Sys2Proof
end

