-- ==== Sys2Proof/Config.lean ====
section
/-! DEFINITION. What the block is configured with and what the spec leaves open: the parameters of 00_scope.md R8, the
vocabulary of the bus port (20_memory.md R60, R61), and the free values, which are opaque: nothing is known of them. -/

namespace Sys2Proof

/-- How the bus environment meets one call (20_memory.md R60): it answers with a value, it answers `ERR`, or it
never answers (R66). -/
inductive Reply (α : Type) where
  | never
  | err
  | ok (a : α)
  deriving DecidableEq, Repr, Inhabited

/-- The answer of `BusOpen` or `BusSetAddr` as the trace records it (00_scope.md R13). -/
inductive Ack where
  | ok
  | err
  deriving DecidableEq, Repr

/-- The count a bus transfer returns: a natural number or `ERR` (20_memory.md R60). -/
inductive Count where
  | count (n : Nat)
  | err
  deriving DecidableEq, Repr

/-- One event of the bus trace (20_memory.md R61): `EvOpen`, `EvSetAddr`, `EvWrite`, `EvRead` and `EvDelay`. -/
inductive Event where
  | evOpen (busId : Byte) (r : Ack)
  | evSetAddr (addr : Byte) (r : Ack)
  | evWrite (s : List Byte) (n : Count)
  | evRead (len : Nat) (n : Count) (d : List Byte)
  | evDelay (ms : Nat)
  deriving DecidableEq, Repr

/-- The parameters a model takes as arguments (00_scope.md R8; log entry 5). -/
structure Params where
  /-- `TX_CAPACITY`. -/
  txCapacity : Nat
  /-- `RX_CAPACITY`. -/
  rxCapacity : Nat
  /-- `RS_MAX_PAYLOAD`. -/
  rsMaxPayload : Nat
  deriving DecidableEq, Repr

/-- The constraints of 00_scope.md R8 on the parameters. -/
abbrev Params.legal (p : Params) : Prop :=
  (1 ≤ p.txCapacity ∧ p.txCapacity ≤ 65535) ∧ (1 ≤ p.rxCapacity ∧ p.rxCapacity ≤ 65535) ∧ p.rsMaxPayload ≤ 65535

/-- The default values of 00_scope.md R8. -/
def Config.defaultParams : Params := { txCapacity := 755, rxCapacity := 755, rsMaxPayload := 755 }

/-- `WAKE_DELAY_MS` (00_scope.md R8; 70_reset_and_hazards.md R246). -/
def Config.wakeDelayMs : Nat := 5

/-- `CRC_INIT` (00_scope.md R8). -/
def Config.crcInit : Half := 0xFFFF

/-- `CRC_POLY_REFLECTED` (00_scope.md R8). -/
def Config.crcPoly : Half := 0x8408

/-- `CRC_RESET_VALUE`: any 16-bit value, drawn at reset (00_scope.md R8; 43_crc.md R200; log entry 6). -/
opaque Config.crcResetValue : Half

/-- FREE VALUE. The answer of `BusOpen(busId)` after a history of events (20_memory.md R60; log entry 2). -/
opaque Config.freeOpen : List Event → Byte → Reply Unit

/-- FREE VALUE. The answer of `BusSetAddr(addr)` after a history of events (20_memory.md R60; log entry 2). -/
opaque Config.freeSetAddr : List Event → Byte → Reply Unit

/-- FREE VALUE. The answer of `BusWrite(s)` after a history of events (20_memory.md R60; log entry 2). -/
opaque Config.freeWrite : List Event → List Byte → Reply Nat

/-- FREE VALUE. The answer of `BusRead(len)` after a history of events (20_memory.md R60; log entry 2). -/
opaque Config.freeRead : List Event → Nat → Reply (List Byte)

/-- FREE VALUE. What `RXB[i]` holds after the RECV_START whose short read ends the history
(42_receive.md R162; log entry 10). -/
opaque Config.drawnByte : List Event → Nat → Byte

end Sys2Proof
end

