-- ==== Sys2Proof/Syntax.lean ====
section
/-! DEFINITION. The eleven commands with their operands (30_encoding.md R84, R85, R87), one constructor per row of
spec/opcode_table.json. -/

namespace Sys2Proof

/-- A decoded command. `len` is the `LEN` field, `din` the data string; WellFormed.lean says how they fit. -/
inductive Instr where
  /-- SEND_START (41_transmit.md R131); `bus` and `addr` are legal and read by nothing. -/
  | sendStart (bus addr : Byte) (len : Half)
  /-- SEND_CONTINUE (41_transmit.md R134); `z` is the zero-fill bit. -/
  | sendContinue (z : Bool) (len : Half) (din : List Byte)
  /-- SEND_STOP (41_transmit.md R137); `p` says that a final element is present. -/
  | sendStop (p : Bool) (bus addr : Byte) (len : Half) (din : List Byte)
  /-- SEND_SINGLE (41_transmit.md R144). -/
  | sendSingle (bus addr : Byte) (len : Half) (din : List Byte)
  /-- WAKE (41_transmit.md R147). -/
  | wake (bus addr : Byte)
  /-- RECV_START (42_receive.md R161). -/
  | recvStart (bus addr : Byte) (len : Half)
  /-- RECV_CONTINUE (42_receive.md R164). -/
  | recvContinue (len : Half)
  /-- RECV_STOP (42_receive.md R167). -/
  | recvStop (len : Half)
  /-- RECV_SINGLE (42_receive.md R170). -/
  | recvSingle (bus addr : Byte)
  /-- CRC_CALCULATE (43_crc.md R194). -/
  | crcCalculate (len : Half) (din : List Byte)
  /-- CRC_ACCUMULATE (43_crc.md R195). -/
  | crcAccumulate (len : Half) (din : List Byte)
  deriving DecidableEq, Repr

end Sys2Proof
end

