-- ==== Sys2Proof/WellFormed.lean ====
section
/-! DEFINITION. When an instruction's data string has the length its command takes (30_encoding.md R83, R85). -/

namespace Sys2Proof

/-- `DIN` holds exactly `LEN` bytes. -/
def dinFills (len : Half) (din : List Byte) : Bool := din.length == len.toNat

/-- The check of 30_encoding.md R83 and of the `LEN` column of R85: a command that takes data carries exactly `LEN`
bytes; SEND_CONTINUE.Z carries none; SEND_STOP without a final element carries none and has `LEN = 0`. -/
def Instr.wellFormed : Instr → Bool
  | .sendStart _ _ _ => true
  | .sendContinue z len din => if z then din.isEmpty else dinFills len din
  | .sendStop p _ _ len din => if p then dinFills len din else len == 0 && din.isEmpty
  | .sendSingle _ _ len din => dinFills len din
  | .wake _ _ => true
  | .recvStart _ _ _ => true
  | .recvContinue _ => true
  | .recvStop _ => true
  | .recvSingle _ _ => true
  | .crcCalculate len din => dinFills len din
  | .crcAccumulate len din => dinFills len din

end Sys2Proof
end

