-- ==== Sys2Proof/Decode.lean ====
section
/-! DEFINITION. The command triple, the decoder of 30_encoding.md R86 and the encoder, both written from the tables R81,
R82, R84 and R85. The decoder is total and rejects by name; every rejection is the status ILLEGAL_COMMAND. -/

namespace Sys2Proof

/-- A command as the host issues it: `(CMD, ARG, DIN)` (30_encoding.md R80). -/
structure Command where
  cmd : Word
  arg : Word
  din : List Byte
  deriving DecidableEq, Repr

/-- The assigned opcodes (30_encoding.md R84). -/
inductive Opcode where
  | sendStart | sendContinue | sendStop | sendSingle | wake
  | recvStart | recvContinue | recvStop | recvSingle
  | crcCalculate | crcAccumulate
  deriving DecidableEq, Repr

/-- Why the decoder refuses a command: the checks of 30_encoding.md R86, in its order. -/
inductive Reject where
  /-- `OPC` is 0x0 or 0xC to 0xF. -/
  | reservedOpcode
  /-- A must-be-zero field of `CMD` is not zero. -/
  | reservedCmdField
  /-- `ARG[31:16]` is not zero. -/
  | reservedArgField
  /-- WAKE or RECV_SINGLE with `LEN` not zero. -/
  | lenMustBeZero
  /-- SEND_STOP with `P = 0` and `LEN` not zero. -/
  | lenWithoutFinal
  /-- `DIN` has not the length of R83. -/
  | dinLength
  deriving DecidableEq, Repr

/-- `OPC`, `CMD[3:0]` (R81). -/
def opcField (cmd : Word) : BitVec 4 := cmd.extractLsb' 0 4

/-- `Z`, `CMD[4]` (R81). -/
def zField (cmd : Word) : Bool := cmd.getLsbD 4

/-- `P`, `CMD[5]` (R81). -/
def pField (cmd : Word) : Bool := cmd.getLsbD 5

/-- `BUS`, `CMD[15:8]` (R81). -/
def busField (cmd : Word) : Byte := cmd.extractLsb' 8 8

/-- `ADDR`, `CMD[23:16]` (R81). -/
def addrField (cmd : Word) : Byte := cmd.extractLsb' 16 8

/-- `LEN`, `ARG[15:0]` (R82). -/
def lenField (arg : Word) : Half := arg.extractLsb' 0 16

/-- `RSV2`, `ARG[31:16]` (R82). -/
def rsvField (arg : Word) : Half := arg.extractLsb' 16 16

/-- The opcode map (R84). -/
def opcodeOf (opc : BitVec 4) : Option Opcode :=
  match opc.toNat with
  | 0x1 => some .sendStart
  | 0x2 => some .sendContinue
  | 0x3 => some .sendStop
  | 0x4 => some .sendSingle
  | 0x5 => some .wake
  | 0x6 => some .recvStart
  | 0x7 => some .recvContinue
  | 0x8 => some .recvStop
  | 0x9 => some .recvSingle
  | 0xA => some .crcCalculate
  | 0xB => some .crcAccumulate
  | _ => none

/-- The `CMD` match value of R85: the opcode's number. -/
def cmdPattern : Opcode → Word
  | .sendStart => 0x00000001
  | .sendContinue => 0x00000002
  | .sendStop => 0x00000003
  | .sendSingle => 0x00000004
  | .wake => 0x00000005
  | .recvStart => 0x00000006
  | .recvContinue => 0x00000007
  | .recvStop => 0x00000008
  | .recvSingle => 0x00000009
  | .crcCalculate => 0x0000000A
  | .crcAccumulate => 0x0000000B

/-- The `CMD` mask of R85: the bits that are fixed. -/
def cmdMask : Opcode → Word
  | .sendStart => 0xFF0000FF
  | .sendContinue => 0xFFFFFFEF
  | .sendStop => 0xFF0000DF
  | .sendSingle => 0xFF0000FF
  | .wake => 0xFF0000FF
  | .recvStart => 0xFF0000FF
  | .recvContinue => 0xFFFFFFFF
  | .recvStop => 0xFFFFFFFF
  | .recvSingle => 0xFF0000FF
  | .crcCalculate => 0xFFFFFFFF
  | .crcAccumulate => 0xFFFFFFFF

/-- The length `DIN` must have (R83). -/
def dinExpected (op : Opcode) (cmd arg : Word) : Nat :=
  match op with
  | .sendContinue => if zField cmd then 0 else (lenField arg).toNat
  | .sendStop => if pField cmd then (lenField arg).toNat else 0
  | .sendSingle => (lenField arg).toNat
  | .crcCalculate => (lenField arg).toNat
  | .crcAccumulate => (lenField arg).toNat
  | .sendStart | .wake | .recvStart | .recvContinue | .recvStop | .recvSingle => 0

/-- The operands of R87, put together for one opcode. -/
def assembleOperands (op : Opcode) (c : Command) : Instr :=
  match op with
  | .sendStart => .sendStart (busField c.cmd) (addrField c.cmd) (lenField c.arg)
  | .sendContinue => .sendContinue (zField c.cmd) (lenField c.arg) c.din
  | .sendStop => .sendStop (pField c.cmd) (busField c.cmd) (addrField c.cmd) (lenField c.arg) c.din
  | .sendSingle => .sendSingle (busField c.cmd) (addrField c.cmd) (lenField c.arg) c.din
  | .wake => .wake (busField c.cmd) (addrField c.cmd)
  | .recvStart => .recvStart (busField c.cmd) (addrField c.cmd) (lenField c.arg)
  | .recvContinue => .recvContinue (lenField c.arg)
  | .recvStop => .recvStop (lenField c.arg)
  | .recvSingle => .recvSingle (busField c.cmd) (addrField c.cmd)
  | .crcCalculate => .crcCalculate (lenField c.arg) c.din
  | .crcAccumulate => .crcAccumulate (lenField c.arg) c.din

/-- The decoder of R86, its checks in the spec's order. -/
def decode (c : Command) : Except Reject Instr :=
  match opcodeOf (opcField c.cmd) with
  | none => .error .reservedOpcode
  | some op =>
    if c.cmd &&& cmdMask op ≠ cmdPattern op then .error .reservedCmdField
    else if rsvField c.arg ≠ 0 then .error .reservedArgField
    else if (op = .wake ∨ op = .recvSingle) ∧ lenField c.arg ≠ 0 then .error .lenMustBeZero
    else if op = .sendStop ∧ pField c.cmd = false ∧ lenField c.arg ≠ 0 then .error .lenWithoutFinal
    else if c.din.length ≠ dinExpected op c.cmd c.arg then .error .dinLength
    else .ok (assembleOperands op c)

/-- `CMD` from its fields, the reserved ones zero (R81). -/
def cmdWord (opc : BitVec 4) (z p : Bool) (bus addr : Byte) : Word :=
  0#8 ++ addr ++ bus ++ 0#2 ++ BitVec.ofBool p ++ BitVec.ofBool z ++ opc

/-- `ARG` from `LEN`, the reserved field zero (R82). -/
def argWord (len : Half) : Word := 0#16 ++ len

/-- The words of an instruction (R81, R82, R84, R85); for a well-formed one the decoder reads it back. -/
def encode : Instr → Command
  | .sendStart bus addr len => ⟨cmdWord 0x1 false false bus addr, argWord len, []⟩
  | .sendContinue z len din => ⟨cmdWord 0x2 z false 0 0, argWord len, din⟩
  | .sendStop p bus addr len din => ⟨cmdWord 0x3 false p bus addr, argWord len, din⟩
  | .sendSingle bus addr len din => ⟨cmdWord 0x4 false false bus addr, argWord len, din⟩
  | .wake bus addr => ⟨cmdWord 0x5 false false bus addr, argWord 0, []⟩
  | .recvStart bus addr len => ⟨cmdWord 0x6 false false bus addr, argWord len, []⟩
  | .recvContinue len => ⟨cmdWord 0x7 false false 0 0, argWord len, []⟩
  | .recvStop len => ⟨cmdWord 0x8 false false 0 0, argWord len, []⟩
  | .recvSingle bus addr => ⟨cmdWord 0x9 false false bus addr, argWord 0, []⟩
  | .crcCalculate len din => ⟨cmdWord 0xA false false 0 0, argWord len, din⟩
  | .crcAccumulate len din => ⟨cmdWord 0xB false false 0 0, argWord len, din⟩

/-- The `n` bytes of a number, least significant first. -/
def bytesOfNat : Nat → Nat → List Byte
  | 0, _ => []
  | n + 1, w => BitVec.ofNat 8 w :: bytesOfNat n (w / 256)

/-- A command from one number `w` of which `nbits` bits are given and the rest are 0: `CMD` is bits 31..0, `ARG` bits
63..32, and `DIN` the bytes from bit 64 on, as many as the command takes (log entry 12). -/
def tableCommand (nbits w : Nat) : Command :=
  let w := w % 2 ^ nbits
  let cmd : Word := BitVec.ofNat 32 w
  let arg : Word := BitVec.ofNat 32 (w / 2 ^ 32)
  let n := match opcodeOf (opcField cmd) with
    | some op => dinExpected op cmd arg
    | none => 0
  ⟨cmd, arg, bytesOfNat n (w / 2 ^ 64)⟩

/-- What the decoder reads from an instruction whose bits are `w`, numbered as spec/opcode_table.json numbers them. -/
def decodeTableWord (nbits w : Nat) : Option Instr :=
  match decode (tableCommand nbits w) with
  | .ok i => some i
  | .error _ => none

end Sys2Proof
end

