-- ==== Sys2Proof/Machine/State.lean ====
section
/-! DEFINITION. The block's state (10_state.md R20 to R34) as plain data, the response and status codes
(60_exceptions.md R210), the ways a step can stop, and the state after reset (70_reset_and_hazards.md R240). -/

namespace Sys2Proof.Machine

/-- `TX_STATE` (10_state.md R23). -/
inductive TxState where
  | idle
  | assembling
  deriving DecidableEq, Repr

/-- `RX_STATE` (10_state.md R27). -/
inductive RxState where
  | idle
  | filled
  deriving DecidableEq, Repr

/-- The status codes of 60_exceptions.md R210 by name; `Status.code` gives their numbers. -/
inductive Status where
  | ok
  | busOpenError
  | busAddressError
  | busWriteError
  | busReadError
  | busAckError
  | bufferOverflow
  | bufferUnderflow
  | sequenceError
  | illegalCommand
  deriving DecidableEq, Repr

/-- A response: `(STATUS, RESULT, HDR, DOUT)` (30_encoding.md R80). -/
structure Response where
  status : Status
  result : Half
  hdr : Byte
  dout : List Byte
  deriving DecidableEq, Repr

/-- The buffer spaces of 20_memory.md R50 (the third one, `ROM`, is the constant `crcRom`). -/
inductive Space where
  | tx
  | rx
  deriving DecidableEq, Repr

/-- The cells of a buffer space that hold a value: (offset, byte), offsets strictly rising. An unlisted cell has no
value (10_state.md R40; log entry 8). -/
abbrev Memory := List Host.Cell

/-- The canonical form of a memory: offsets strictly rising. -/
abbrev Memory.wf (m : Memory) : Prop := m.Pairwise (fun c d => c.1 < d.1)

/-- The answers the bus environment gives next, one list for each call, the first answer first
(20_memory.md R60; log entry 2). -/
structure BusAnswers where
  opens : List (Reply Unit)
  setAddrs : List (Reply Unit)
  writes : List (Reply Nat)
  reads : List (Reply (List Byte))
  deriving DecidableEq, Repr

/-- One call of the bus primitive (00_scope.md R13). -/
inductive BusCall where
  | openBus (busId : Byte)
  | setAddr (addr : Byte)
  | write (s : List Byte)
  | read (len : Nat)
  deriving DecidableEq, Repr

/-- The block's registers and buffers (10_state.md R34), and after them the model's own fields: the parameters, what
the host will issue, what the bus environment answers, and the record of events and responses. -/
structure State where
  /-- `CRC_REG` (R22), the raw register. -/
  crcReg : Half
  /-- `TX_STATE` (R23). -/
  txState : TxState
  /-- `TX_LEN` (R24). -/
  txLen : Half
  /-- `TX_OFF` (R25). -/
  txOff : Half
  /-- `TXB` (R26). -/
  txb : Memory
  /-- `RX_STATE` (R27). -/
  rxState : RxState
  /-- `RX_LEN` (R28). -/
  rxLen : Half
  /-- `RX_OFF` (R29). -/
  rxOff : Half
  /-- `RXB` (R30). -/
  rxb : Memory
  /-- `BUS_OPEN` (R31). -/
  busOpen : Bool
  /-- `CUR_ADDR` (R32). -/
  curAddr : Byte
  /-- `CUR_ADDR_VALID` (R32). -/
  curAddrValid : Bool
  /-- MODEL: the parameters of 00_scope.md R8; no command changes them (log entry 5). -/
  params : Params
  /-- MODEL: the commands the host issues next, in order (20_memory.md R65; log entry 1). -/
  pending : List Command
  /-- MODEL: the bus environment's answers that are already fixed (log entry 2). -/
  answers : BusAnswers
  /-- MODEL: the bus trace, oldest event first (20_memory.md R61; log entry 11). -/
  trace : List Event
  /-- MODEL: the responses given, oldest first (30_encoding.md R80; log entry 11). -/
  responses : List Response
  deriving DecidableEq, Repr

/-- Why a step does not end in a next state. -/
inductive Fault where
  /-- Raised by the four bus calls when the environment never answers: the command is stuck for good in state `inState`,
  with its earlier writes and events made, and no later command starts (20_memory.md R66; log entry 3). Safe: the
  spec has this outcome, and the state in which the block hangs is given. -/
  | stuck (inState : State) (call : BusCall)
  /-- Raised by `memRead` when a cell of the `count` read from `offset` on has no value yet. No rule reads such a cell
  (10_state.md R40; log entry 8). Safe: the step stops where the spec says a model should fault. -/
  | cellUnwritten (space : Space) (offset count : Nat)
  /-- Raised by `memRead` and `memWrite` when the `count` cells from `offset` on pass the end of a space. The rules never
  do so (00_scope.md R12; log entry 9). Safe: the step stops in a state no run reaches. -/
  | cellOutsideSpace (space : Space) (offset count : Nat)
  deriving DecidableEq, Repr

/-- Why an instruction has no meaning. -/
inductive Refusal where
  /-- Raised by an arm of `exec` for an instruction not yet modelled. Safe: nothing is claimed of it. No arm raises
  it now. -/
  | notModelled (mnemonic : String)
  deriving DecidableEq, Repr

/-- The machine right after reset (70_reset_and_hazards.md R240). `CRC_REG` is the open draw `CRC_RESET_VALUE`
(log entry 6). `TX_LEN`, `TX_OFF`, `RX_LEN`, `RX_OFF` and `CUR_ADDR`, which the spec leaves unspecified, are 0:
DESIGN CHOICE, unsafe (log entry 7). No buffer cell has a value (log entry 8). -/
def State.reset : State where
  crcReg := Config.crcResetValue
  txState := .idle
  txLen := 0
  txOff := 0
  txb := []
  rxState := .idle
  rxLen := 0
  rxOff := 0
  rxb := []
  busOpen := false
  curAddr := 0
  curAddrValid := false
  params := Config.defaultParams
  pending := []
  answers := { opens := [], setAddrs := [], writes := [], reads := [] }
  trace := []
  responses := []

end Sys2Proof.Machine
end

