-- ==== Sys2Proof/Machine/Ops.lean ====
section
/-! DEFINITION. The named operations every meaning is made of: how a command runs and ends (00_scope.md R14, R15), the
buffer memories (R12), the bus-primitive calls and their trace (R13, 20_memory.md R60, R61), the bus handle
(40_bus_handle.md R110 to R115), and taking the host's next command (30_encoding.md R80, R86). -/

namespace Sys2Proof.Machine

/-! ## How a command runs -/

/-- A sub-step of a command: it goes on with a value, it ends the command by `raise E` with what was written so far
kept (00_scope.md R14), or it stops. -/
inductive Ran (α : Type) where
  | ok (a : α) (s : State)
  | raised (e : Status) (s : State)
  | stopped (f : Fault)
  deriving DecidableEq, Repr

/-- Go on with `k` unless the sub-step ended the command. -/
def Ran.andThen {α β : Type} (r : Ran α) (k : α → State → Ran β) : Ran β :=
  match r with
  | .ok a s => k a s
  | .raised e s => .raised e s
  | .stopped f => .stopped f

/-- The response of `raise E`: `RESULT = 0`, `HDR = 0`, `DOUT = []` (00_scope.md R14). -/
def errorResponse (e : Status) : Response := { status := e, result := 0, hdr := 0, dout := [] }

/-- `respond OK(result, hdr, dout)` (00_scope.md R15). -/
def okResponse (result : Half) (hdr : Byte) (dout : List Byte) : Response :=
  { status := .ok, result := result, hdr := hdr, dout := dout }

/-- `respond OK()`: every field the rule does not name is 0 or `[]` (00_scope.md R15). -/
def plainOk : Response := okResponse 0 0 []

/-- Give the host a response (30_encoding.md R80). -/
def State.respond (s : State) (r : Response) : State := { s with responses := s.responses ++ [r] }

/-- End of a command: its response, the error response of a `raise`, or the stop. -/
def finish (r : Ran Response) : Host.Outcome State Fault Refusal :=
  match r with
  | .ok resp s => .next (s.respond resp)
  | .raised e s => .next (s.respond (errorResponse e))
  | .stopped f => .fault f

/-! ## The buffer memories -/

/-- The value of one cell, none if nothing has written it (10_state.md R40). -/
def Memory.readByte : Memory → Nat → Option Byte
  | [], _ => none
  | (a, b) :: m, x => if a = x then some b else Memory.readByte m x

/-- `m` with cell `x` holding `v`, offsets kept rising. -/
def Memory.writeByte : Memory → Nat → Byte → Memory
  | [], x, v => [(x, v)]
  | (a, b) :: m, x, v =>
    if x < a then (x, v) :: (a, b) :: m
    else if a = x then (x, v) :: m
    else (a, b) :: Memory.writeByte m x v

/-- The `n` cells from `o` on, none if one of them has no value. -/
def Memory.readBytes (m : Memory) : Nat → Nat → Option (List Byte)
  | _, 0 => some []
  | o, n + 1 =>
    match m.readByte o, Memory.readBytes m (o + 1) n with
    | some b, some bs => some (b :: bs)
    | _, _ => none

/-- `m` with the bytes of `bs` in the cells from `o` on (20_memory.md R53: byte `i` at `o + i`). -/
def Memory.writeBytes : Memory → Nat → List Byte → Memory
  | m, _, [] => m
  | m, o, b :: bs => Memory.writeBytes (m.writeByte o b) (o + 1) bs

/-- The cells of a space (20_memory.md R50). -/
def State.cells (s : State) : Space → Memory
  | .tx => s.txb
  | .rx => s.rxb

/-- `s` with new cells in one space. -/
def State.withCells (s : State) (sp : Space) (m : Memory) : State :=
  match sp with
  | .tx => { s with txb := m }
  | .rx => { s with rxb := m }

/-- The size of a space (20_memory.md R50). -/
def State.capacity (s : State) : Space → Nat
  | .tx => s.params.txCapacity
  | .rx => s.params.rxCapacity

/-- The cells `o .. o+n-1` all exist in the space; a count of 0 names none (00_scope.md R12). -/
abbrev State.hasCells (s : State) (sp : Space) (o n : Nat) : Prop := n = 0 ∨ o + n ≤ s.capacity sp

/-- `MemRead(S:o, n)`, the string of the `n` cells from `o` on (00_scope.md R12); it changes nothing
(20_memory.md R62). A cell past the end or without a value stops the step (log entries 8 and 9). -/
def memRead (sp : Space) (o n : Nat) (s : State) : Ran (List Byte) :=
  if s.hasCells sp o n then
    match (s.cells sp).readBytes o n with
    | some bs => .ok bs s
    | none => .stopped (.cellUnwritten sp o n)
  else .stopped (.cellOutsideSpace sp o n)

/-- `MemWrite(S:o, n, s)` with `n` the length of the string (00_scope.md R12; log entry 9). -/
def memWrite (sp : Space) (o : Nat) (bs : List Byte) (s : State) : Ran Unit :=
  if s.hasCells sp o bs.length then .ok () (s.withCells sp ((s.cells sp).writeBytes o bs))
  else .stopped (.cellOutsideSpace sp o bs.length)

/-! ## The bus primitive -/

/-- The event a call makes, appended to the trace (20_memory.md R61). -/
def State.record (s : State) (e : Event) : State := { s with trace := s.trace ++ [e] }

/-- The environment's answer to `BusOpen(busId)`: the next fixed one, or a free value (log entry 2). -/
def openReply (busId : Byte) (s : State) : Reply Unit :=
  match s.answers.opens with
  | r :: _ => r
  | [] => Config.freeOpen s.trace busId

/-- The environment's answer to `BusSetAddr(addr)`: the next fixed one, or a free value (log entry 2). -/
def setAddrReply (addr : Byte) (s : State) : Reply Unit :=
  match s.answers.setAddrs with
  | r :: _ => r
  | [] => Config.freeSetAddr s.trace addr

/-- The environment's answer to `BusWrite(bs)`: the next fixed one, or a free value (log entry 2). -/
def writeReply (bs : List Byte) (s : State) : Reply Nat :=
  match s.answers.writes with
  | r :: _ => r
  | [] => Config.freeWrite s.trace bs

/-- An answer to `BusRead(len)` cut to at most `len` bytes, as 20_memory.md R60 bounds it (log entry 4). -/
def clipReply (len : Nat) : Reply (List Byte) → Reply (List Byte)
  | .never => .never
  | .err => .err
  | .ok d => .ok (d.take len)

/-- The environment's answer to `BusRead(len)`: the next fixed one, or a free value (log entry 2), never more than
`len` bytes. -/
def readReply (len : Nat) (s : State) : Reply (List Byte) :=
  clipReply len <|
    match s.answers.reads with
    | r :: _ => r
    | [] => Config.freeRead s.trace len

/-- `s` after the open answer in front has been used. -/
def State.tookOpen (s : State) : State :=
  { s with answers := { s.answers with opens := s.answers.opens.tail } }

/-- `s` after the set-address answer in front has been used. -/
def State.tookSetAddr (s : State) : State :=
  { s with answers := { s.answers with setAddrs := s.answers.setAddrs.tail } }

/-- `s` after the write answer in front has been used. -/
def State.tookWrite (s : State) : State :=
  { s with answers := { s.answers with writes := s.answers.writes.tail } }

/-- `s` after the read answer in front has been used. -/
def State.tookRead (s : State) : State :=
  { s with answers := { s.answers with reads := s.answers.reads.tail } }

/-- `BusOpen(busId)` with its event (00_scope.md R13; 20_memory.md R66 for no answer). -/
def callOpen (busId : Byte) (s : State) : Ran Ack :=
  match openReply busId s with
  | .never => .stopped (.stuck s (.openBus busId))
  | .err => .ok .err (s.tookOpen.record (.evOpen busId .err))
  | .ok _ => .ok .ok (s.tookOpen.record (.evOpen busId .ok))

/-- `BusSetAddr(addr)` with its event (00_scope.md R13). -/
def callSetAddr (addr : Byte) (s : State) : Ran Ack :=
  match setAddrReply addr s with
  | .never => .stopped (.stuck s (.setAddr addr))
  | .err => .ok .err (s.tookSetAddr.record (.evSetAddr addr .err))
  | .ok _ => .ok .ok (s.tookSetAddr.record (.evSetAddr addr .ok))

/-- `WriteRaw(bs)`: one blocking `BusWrite(bs)` with its event, answering the count (40_bus_handle.md R112). -/
def writeRaw (bs : List Byte) (s : State) : Ran Count :=
  match writeReply bs s with
  | .never => .stopped (.stuck s (.write bs))
  | .err => .ok .err (s.tookWrite.record (.evWrite bs .err))
  | .ok n => .ok (.count n) (s.tookWrite.record (.evWrite bs (.count n)))

/-- `ReadRaw(len)`: one blocking `BusRead(len)` with its event, answering the count and the bytes; `ERR` comes with no
bytes (40_bus_handle.md R113). -/
def readRaw (len : Nat) (s : State) : Ran (Count × List Byte) :=
  match readReply len s with
  | .never => .stopped (.stuck s (.read len))
  | .err => .ok (.err, []) (s.tookRead.record (.evRead len .err []))
  | .ok d => .ok (.count d.length, d) (s.tookRead.record (.evRead len (.count d.length) d))

/-- `Delay(ms)`: the wait event; it always ends (00_scope.md R13; 41_transmit.md R147). -/
def delay (ms : Nat) (s : State) : Ran Unit := .ok () (s.record (.evDelay ms))

/-- A transfer whose count is not exactly the requested one is short and raises `e`, `ERR` included
(40_bus_handle.md R114). -/
def requireCount (n : Count) (want : Nat) (e : Status) (s : State) : Ran Unit :=
  if n = .count want then .ok () s else .raised e s

/-! ## The bus handle -/

/-- `EnsureOpen(bus)` (40_bus_handle.md R110). -/
def ensureOpen (bus : Byte) (s : State) : Ran Unit :=
  if s.busOpen then .ok () s
  else (callOpen bus s).andThen fun r s =>
    match r with
    | .err => .raised .busOpenError s
    | .ok => .ok () { s with busOpen := true }

/-- `EnsureAddressed(addr)` (40_bus_handle.md R111). -/
def ensureAddressed (addr : Byte) (s : State) : Ran Unit :=
  if s.curAddrValid = true ∧ s.curAddr = addr then .ok () s
  else (callSetAddr addr s).andThen fun r s =>
    match r with
    | .err => .raised .busAddressError { s with curAddrValid := false }
    | .ok => .ok () { s with curAddr := addr, curAddrValid := true }

/-- What every bus command does before its transfers, in this order (40_bus_handle.md R115). -/
def connect (bus addr : Byte) (s : State) : Ran Unit :=
  (ensureOpen bus s).andThen fun _ s => ensureAddressed addr s

/-- The bytes left in `RXB[0 .. len)` by a short RECV_START: free values of the history, which ends with the read
(42_receive.md R162; log entry 10). -/
def drawnBytes (history : List Event) (len : Nat) : List Byte := (List.range len).map (Config.drawnByte history)

/-! ## Taking the host's next command -/

/-- The command the host issues next, and the state without it (30_encoding.md R80; log entry 1). -/
def takeCommand (s : State) : Option (Command × State) :=
  match s.pending with
  | [] => none
  | c :: cs => some (c, { s with pending := cs })

/-- The answer to a command the decoder refuses: `ILLEGAL_COMMAND`, nothing else changed (30_encoding.md R86). -/
def rejectCommand (s : State) : State := s.respond (errorResponse .illegalCommand)

/-- `s` with the host about to issue `c` next. -/
def State.issue (s : State) (c : Command) : State := { s with pending := c :: s.pending }

end Sys2Proof.Machine
end

