-- ==== Sys2Proof/Machine/Flags.lean ====
section
/-! DEFINITION. The flags of 10_state.md R39 that commands check and write: `TX_STATE` and `RX_STATE`. (`BUS_OPEN` and
`CUR_ADDR_VALID` are written by the bus handle in Ops.lean. The block has no condition codes.) -/

namespace Sys2Proof.Machine

/-- SEND_CONTINUE and SEND_STOP outside `ASSEMBLING` raise `SEQUENCE_ERROR` (41_transmit.md R134, R137). -/
def requireAssembling (s : State) : Ran Unit :=
  if s.txState = .assembling then .ok () s else .raised .sequenceError s

/-- RECV_CONTINUE and RECV_STOP outside `FILLED` raise `SEQUENCE_ERROR` (42_receive.md R164, R167). -/
def requireFilled (s : State) : Ran Unit :=
  if s.rxState = .filled then .ok () s else .raised .sequenceError s

/-- `TX_LEN <- len; TX_OFF <- 0; TX_STATE <- ASSEMBLING` (41_transmit.md R131). -/
def startAssembling (len : Half) (s : State) : State :=
  { s with txLen := len, txOff := 0, txState := .assembling }

/-- `TX_STATE <- IDLE` (41_transmit.md R137). -/
def endAssembling (s : State) : State := { s with txState := .idle }

/-- `RX_LEN <- len; RX_OFF <- 0; RX_STATE <- FILLED` (42_receive.md R161). -/
def startFilled (len : Half) (s : State) : State :=
  { s with rxLen := len, rxOff := 0, rxState := .filled }

/-- `RX_OFF <- 0; RX_STATE <- IDLE` (42_receive.md R167). -/
def endFilled (s : State) : State := { s with rxOff := 0, rxState := .idle }

end Sys2Proof.Machine
end

