-- ==== Sys2Proof/Machine/Operands.lean ====
section
/-! DEFINITION. The operand forms: the bytes a SEND_CONTINUE appends (41_transmit.md R134, R135), the wake byte (R147), and
the big-endian payload length (20_memory.md R54); the numbers of the status codes (60_exceptions.md R210). -/

namespace Sys2Proof.Machine

/-- What SEND_CONTINUE appends: `len` bytes of 0x00 with `z = 1`, else `DIN` (41_transmit.md R134, R135). -/
def continueBytes (z : Bool) (len : Half) (din : List Byte) : List Byte :=
  if z then List.replicate len.toNat 0 else din

/-- The string WAKE writes (41_transmit.md R147). -/
def wakeBytes : List Byte := [0]

/-- `L = b[0] * 256 + b[1]` (20_memory.md R54; 42_receive.md R170). The callers give it two bytes. -/
def payloadLength (b : List Byte) : Nat := (b.getD 0 0).toNat * 256 + (b.getD 1 0).toNat

/-- The number of a status (60_exceptions.md R210). -/
def Status.code : Status → Byte
  | .ok => 0x00
  | .busOpenError => 0x01
  | .busAddressError => 0x02
  | .busWriteError => 0x03
  | .busReadError => 0x04
  | .busAckError => 0x05
  | .bufferOverflow => 0x06
  | .bufferUnderflow => 0x07
  | .sequenceError => 0x08
  | .illegalCommand => 0x09

end Sys2Proof.Machine
end

