-- ==== Sys2Proof/Machine/Receive.lean ====
section
/-! DEFINITION. The meanings of RECV_START, RECV_CONTINUE, RECV_STOP and RECV_SINGLE (42_receive.md). -/

namespace Sys2Proof.Machine

/-- The next `len` bytes of the received frame, `BUFFER_UNDERFLOW` before any change when fewer remain. The spec's
`RX_LEN - RX_OFF < len` is the exact comparison `RX_LEN < RX_OFF + len` (42_receive.md R164, R167; log entry 14). -/
def frameBytes (len : Half) (s : State) : Ran (List Byte) :=
  if s.rxLen.toNat < s.rxOff.toNat + len.toNat then .raised .bufferUnderflow s
  else memRead .rx s.rxOff.toNat len.toNat s

/-- One bus read of exactly `len` bytes, `BUS_READ_ERROR` when short (40_bus_handle.md R113, R114; 42_receive.md
R170, R174). -/
def readFully (len : Nat) (s : State) : Ran (List Byte) :=
  (readRaw len s).andThen fun nd s =>
  (requireCount nd.1 len .busReadError s).andThen fun _ s =>
  .ok nd.2 s

/-- RECV_START (42_receive.md R161 to R163): a short read leaves `RXB[0 .. len)` drawn and raises `BUS_ACK_ERROR`. -/
def execRecvStart (bus addr : Byte) (len : Half) (s : State) : Host.Outcome State Fault Refusal :=
  finish <|
    if s.params.rxCapacity < len.toNat then .raised .bufferOverflow s
    else
      (connect bus addr s).andThen fun _ s =>
      (readRaw len.toNat s).andThen fun nd s =>
      if nd.1 = .count len.toNat then
        (memWrite .rx 0 nd.2 s).andThen fun _ s =>
        .ok plainOk (startFilled len s)
      else
        (memWrite .rx 0 (drawnBytes s.trace len.toNat) s).andThen fun _ s =>
        .raised .busAckError s

/-- RECV_CONTINUE (42_receive.md R164 to R166). -/
def execRecvContinue (len : Half) (s : State) : Host.Outcome State Fault Refusal :=
  finish <|
    (requireFilled s).andThen fun _ s =>
    (frameBytes len s).andThen fun d s =>
    .ok (okResponse 0 0 d) { s with rxOff := s.rxOff + len }

/-- RECV_STOP (42_receive.md R167 to R169). -/
def execRecvStop (len : Half) (s : State) : Host.Outcome State Fault Refusal :=
  finish <|
    (requireFilled s).andThen fun _ s =>
    (frameBytes len s).andThen fun d s =>
    .ok (okResponse 0 0 d) (endFilled s)

/-- RECV_SINGLE (42_receive.md R170 to R172): header, big-endian length and payload in three reads. -/
def execRecvSingle (bus addr : Byte) (s : State) : Host.Outcome State Fault Refusal :=
  finish <|
    (connect bus addr s).andThen fun _ s =>
    (readFully 1 s).andThen fun h s =>
    (readFully 2 s).andThen fun b s =>
    if s.params.rsMaxPayload < payloadLength b then .raised .bufferOverflow s
    else
      (readFully (payloadLength b) s).andThen fun p s =>
      .ok (okResponse (BitVec.ofNat 16 (payloadLength b)) (h.getD 0 0) p) s

end Sys2Proof.Machine
end

