-- ==== Sys2Proof/Machine/Transmit.lean ====
section
/-! DEFINITION. The meanings of SEND_START, SEND_CONTINUE, SEND_STOP, SEND_SINGLE and WAKE (41_transmit.md). -/

namespace Sys2Proof.Machine

/-- Append `bs`, `len` bytes, to the frame being assembled: `BUFFER_OVERFLOW` before any write when they would pass
`TX_LEN` (an exact sum), else the cells from `TX_OFF` on and the new `TX_OFF` (41_transmit.md R134, R136, R137). -/
def appendFrame (len : Half) (bs : List Byte) (s : State) : Ran Unit :=
  if s.txLen.toNat < s.txOff.toNat + len.toNat then .raised .bufferOverflow s
  else (memWrite .tx s.txOff.toNat bs s).andThen fun _ s => .ok () { s with txOff := s.txOff + len }

/-- One bus write of `bs`, `BUS_WRITE_ERROR` when the count is not `want` (40_bus_handle.md R112, R114). -/
def writeFully (bs : List Byte) (want : Nat) (s : State) : Ran Unit :=
  (writeRaw bs s).andThen fun n s => requireCount n want .busWriteError s

/-- SEND_START (41_transmit.md R131 to R133). -/
def execSendStart (_bus _addr : Byte) (len : Half) (s : State) : Host.Outcome State Fault Refusal :=
  finish <|
    if s.params.txCapacity < len.toNat then .raised .bufferOverflow s
    else .ok plainOk (startAssembling len s)

/-- SEND_CONTINUE and SEND_CONTINUE.Z (41_transmit.md R134 to R136). -/
def execSendContinue (z : Bool) (len : Half) (din : List Byte) (s : State) : Host.Outcome State Fault Refusal :=
  finish <|
    (requireAssembling s).andThen fun _ s =>
    (appendFrame len (continueBytes z len din) s).andThen fun _ s =>
    .ok plainOk s

/-- SEND_STOP (41_transmit.md R137 to R141): `TX_STATE` is `IDLE` on every outcome after the state check. -/
def execSendStop (p : Bool) (bus addr : Byte) (len : Half) (din : List Byte) (s : State) :
    Host.Outcome State Fault Refusal :=
  finish <|
    (requireAssembling s).andThen fun _ s =>
    (if p then appendFrame len din (endAssembling s) else .ok () (endAssembling s)).andThen fun _ s =>
    (connect bus addr s).andThen fun _ s =>
    (memRead .tx 0 s.txOff.toNat s).andThen fun bs s =>
    (writeFully bs s.txOff.toNat s).andThen fun _ s =>
    .ok plainOk s

/-- SEND_SINGLE (41_transmit.md R144, R145). -/
def execSendSingle (bus addr : Byte) (len : Half) (din : List Byte) (s : State) : Host.Outcome State Fault Refusal :=
  finish <|
    (connect bus addr s).andThen fun _ s =>
    (writeFully din len.toNat s).andThen fun _ s =>
    .ok plainOk s

/-- WAKE (41_transmit.md R147, R148). -/
def execWake (bus addr : Byte) (s : State) : Host.Outcome State Fault Refusal :=
  finish <|
    (connect bus addr s).andThen fun _ s =>
    (writeFully wakeBytes 1 s).andThen fun _ s =>
    (delay Config.wakeDelayMs s).andThen fun _ s =>
    .ok plainOk s

end Sys2Proof.Machine
end

