-- ==== Sys2Proof/Machine/Dispatch.lean ====
section
/-! DEFINITION. The dispatch of a decoded command to its rule (30_encoding.md R84, R86). -/

namespace Sys2Proof.Machine

def exec (i : Instr) (s : State) : Host.Outcome State Fault Refusal :=
  match i with
  -- 41_transmit.md
  | .sendStart bus addr len => Sys2Proof.Machine.execSendStart bus addr len s
  | .sendContinue z len din => Sys2Proof.Machine.execSendContinue z len din s
  | .sendStop p bus addr len din => Sys2Proof.Machine.execSendStop p bus addr len din s
  | .sendSingle bus addr len din => Sys2Proof.Machine.execSendSingle bus addr len din s
  | .wake bus addr => Sys2Proof.Machine.execWake bus addr s
  -- 42_receive.md
  | .recvStart bus addr len => Sys2Proof.Machine.execRecvStart bus addr len s
  | .recvContinue len => Sys2Proof.Machine.execRecvContinue len s
  | .recvStop len => Sys2Proof.Machine.execRecvStop len s
  | .recvSingle bus addr => Sys2Proof.Machine.execRecvSingle bus addr s
  -- 43_crc.md
  | .crcCalculate len din => Sys2Proof.Machine.execCrcCalculate len din s
  | .crcAccumulate len din => Sys2Proof.Machine.execCrcAccumulate len din s

end Sys2Proof.Machine
end

