-- ==== Sys2Proof/Machine/Step.lean ====
section
/-! DEFINITION. One step of the block: the host's next command, from its decoding to its response
(00_scope.md R6; 20_memory.md R65; 30_encoding.md R86). -/

namespace Sys2Proof.Machine

/-- One command from issue to response. With no command to take, the block waits and nothing changes (log entry 1). -/
def step (s : State) : Host.Outcome State Fault Refusal :=
  match takeCommand s with
  | none => .next s
  | some (c, s) =>
    match decode c with
    | .ok i => exec i s
    | .error _ => .next (rejectCommand s)

/-- `s` with the instruction whose bits are `w` issued next, so that `step` runs it (log entries 1 and 12). -/
def State.withFetchWord (s : State) (nbits w : Nat) : State := s.issue (tableCommand nbits w)

end Sys2Proof.Machine
end

