-- ==== Sys2Proof/Machine/Assembler.lean ====
section
/-! DEFINITION. What the host writes: the assembler forms of 30_encoding.md R91 with the instruction each encodes and its
spelling, the pseudo-instructions of R92 with their expansions, and a host that stops at the first response that is
not OK (R92). -/

namespace Sys2Proof.Machine

/-- The thirteen forms of 30_encoding.md R91. -/
inductive Asm where
  | sendStart (bus addr : Byte) (len : Half)
  | sendContinue (data : List Byte)
  | sendContinueZ (len : Half)
  | sendStop (bus addr : Byte)
  | sendStopData (bus addr : Byte) (data : List Byte)
  | sendSingle (bus addr : Byte) (data : List Byte)
  | wake (bus addr : Byte)
  | recvStart (bus addr : Byte) (len : Half)
  | recvContinue (len : Half)
  | recvStop (len : Half)
  | recvSingle (bus addr : Byte)
  | crcCalculate (data : List Byte)
  | crcAccumulate (data : List Byte)
  deriving DecidableEq, Repr

/-- `LEN = |data|` (R91); none when it does not fit the 16-bit field. -/
def lenOf (data : List Byte) : Option Half :=
  if data.length < 65536 then some (BitVec.ofNat 16 data.length) else none

/-- The instruction a form encodes (R91, column "encodes"); none for data longer than `LEN` can say. -/
def Asm.assemble : Asm → Option Instr
  | .sendStart bus addr len => some (.sendStart bus addr len)
  | .sendContinue data => (lenOf data).map fun len => .sendContinue false len data
  | .sendContinueZ len => some (.sendContinue true len [])
  | .sendStop bus addr => some (.sendStop false bus addr 0 [])
  | .sendStopData bus addr data => (lenOf data).map fun len => .sendStop true bus addr len data
  | .sendSingle bus addr data => (lenOf data).map fun len => .sendSingle bus addr len data
  | .wake bus addr => some (.wake bus addr)
  | .recvStart bus addr len => some (.recvStart bus addr len)
  | .recvContinue len => some (.recvContinue len)
  | .recvStop len => some (.recvStop len)
  | .recvSingle bus addr => some (.recvSingle bus addr)
  | .crcCalculate data => (lenOf data).map fun len => .crcCalculate len data
  | .crcAccumulate data => (lenOf data).map fun len => .crcAccumulate len data

/-- A number in decimal (R91). -/
def printNum {w : Nat} (v : BitVec w) : String := toString v.toNat

/-- Operands with commas between them (R91). -/
def printOperands (ops : List String) : String := String.intercalate ", " ops

/-- A byte list in curly brackets (R91). -/
def printData (data : List Byte) : String :=
  String.singleton (Char.ofNat 0x7B) ++ printOperands (data.map printNum) ++ String.singleton (Char.ofNat 0x7D)

/-- The spelling of a form in the syntax of R91: numbers in decimal, data as a byte list (log entry 19). -/
def Asm.print : Asm → String
  | .sendStart bus addr len => "SEND_START " ++ printOperands [printNum bus, printNum addr, printNum len]
  | .sendContinue data => "SEND_CONTINUE " ++ printData data
  | .sendContinueZ len => "SEND_CONTINUE.Z " ++ printNum len
  | .sendStop bus addr => "SEND_STOP " ++ printOperands [printNum bus, printNum addr]
  | .sendStopData bus addr data => "SEND_STOP " ++ printOperands [printNum bus, printNum addr, printData data]
  | .sendSingle bus addr data => "SEND_SINGLE " ++ printOperands [printNum bus, printNum addr, printData data]
  | .wake bus addr => "WAKE " ++ printOperands [printNum bus, printNum addr]
  | .recvStart bus addr len => "RECV_START " ++ printOperands [printNum bus, printNum addr, printNum len]
  | .recvContinue len => "RECV_CONTINUE " ++ printNum len
  | .recvStop len => "RECV_STOP " ++ printNum len
  | .recvSingle bus addr => "RECV_SINGLE " ++ printOperands [printNum bus, printNum addr]
  | .crcCalculate data => "CRC_CALCULATE " ++ printData data
  | .crcAccumulate data => "CRC_ACCUMULATE " ++ printData data

/-- The pseudo-instructions of 30_encoding.md R92. -/
inductive Pseudo where
  | sendFrame (bus addr : Byte) (data : List Byte)
  | recvFrame (bus addr : Byte) (len : Half)
  | pad (n : Half)
  | crcChain (first : List Byte) (rest : List (List Byte))
  deriving DecidableEq, Repr

/-- The expansions of R92; none when a length does not fit the `LEN` field. -/
def Pseudo.expand : Pseudo → Option (List Asm)
  | .sendFrame bus addr data => (lenOf data).map fun len => [.sendStart bus addr len, .sendStopData bus addr data]
  | .recvFrame bus addr len => some [.recvStart bus addr len, .recvStop len]
  | .pad n => some [.sendContinueZ n]
  | .crcChain first rest => some (.crcCalculate first :: rest.map .crcAccumulate)

/-- The commands of a list of forms; none when one of them cannot be encoded. -/
def assembleAll : List Asm → Option (List Command)
  | [] => some []
  | a :: as =>
    match a.assemble, assembleAll as with
    | some i, some cs => some (encode i :: cs)
    | _, _ => none

/-- The last response was `OK`. -/
def answeredOk (s : State) : Bool :=
  match s.responses.getLast? with
  | some r => r.status == .ok
  | none => false

/-- A host that issues commands one after the other, each after the response to the one before, and stops at the first
response that is not OK (R92). -/
def runWhileOk : List Command → State → Host.Outcome State Fault Refusal
  | [], s => .next s
  | c :: cs, s =>
    match step (s.issue c) with
    | .next t => if answeredOk t then runWhileOk cs t else .next t
    | .fault f => .fault f
    | .refused r => .refused r

end Sys2Proof.Machine
end

