-- ==== Sys2Proof/Safety.lean ====
section
/-! DEFINITION. The terms in which claims are made: what a good state is (10_state.md R35, R40), what a frame says stays
unchanged, what the spec's tables list of each command (30_encoding.md R85, 41_transmit.md R130, 42_receive.md R160,
60_exceptions.md R210, 20_memory.md R72), and when two states differ in unobservable values only (R242). -/

namespace Sys2Proof.Safety

open Sys2Proof.Machine

/-! ## Good states -/

/-- 10_state.md R35 (a) and (b). -/
abbrev OffsetsInBounds (s : State) : Prop :=
  (s.txState = .assembling → s.txOff.toNat ≤ s.txLen.toNat ∧ s.txLen.toNat ≤ s.params.txCapacity) ∧
  (s.rxState = .filled → s.rxOff.toNat ≤ s.rxLen.toNat ∧ s.rxLen.toNat ≤ s.params.rxCapacity)

/-- The first `n` cells of a memory hold a value. -/
abbrev Written (m : Memory) (n : Nat) : Prop := ∀ o, o < n → (m.readByte o).isSome = true

/-- A memory lists only cells below `cap`. -/
abbrev Within (m : Memory) (cap : Nat) : Prop := ∀ c ∈ m, c.1 < cap

/-- Both buffers are in canonical form and inside their spaces (20_memory.md R50). -/
abbrev BuffersCanonical (s : State) : Prop :=
  (s.txb.wf ∧ Within s.txb s.params.txCapacity) ∧ (s.rxb.wf ∧ Within s.rxb s.params.rxCapacity)

/-- The cells a command may read have been written (10_state.md R26, R30, R40). -/
abbrev FramesWritten (s : State) : Prop :=
  (s.txState = .assembling → Written s.txb s.txOff.toNat) ∧ (s.rxState = .filled → Written s.rxb s.rxLen.toNat)

/-- The invariant of the block: legal parameters (00_scope.md R8), R35, canonical buffers, frames written, and an address
cached only while the bus is open (40_bus_handle.md R115). -/
abbrev GoodState (s : State) : Prop :=
  s.params.legal ∧ OffsetsInBounds s ∧ BuffersCanonical s ∧ FramesWritten s ∧
    (s.curAddrValid = true → s.busOpen = true)

/-! ## What stays unchanged -/

/-- The transmit registers and every cell of `TXB` are unchanged. -/
abbrev SameTx (s t : State) : Prop :=
  t.txState = s.txState ∧ t.txLen = s.txLen ∧ t.txOff = s.txOff ∧ ∀ a, t.txb.readByte a = s.txb.readByte a

/-- The receive registers and every cell of `RXB` are unchanged. -/
abbrev SameRx (s t : State) : Prop :=
  t.rxState = s.rxState ∧ t.rxLen = s.rxLen ∧ t.rxOff = s.rxOff ∧ ∀ a, t.rxb.readByte a = s.rxb.readByte a

/-- `BUS_OPEN`, `CUR_ADDR` and `CUR_ADDR_VALID` are unchanged. -/
abbrev SameHandle (s t : State) : Prop :=
  t.busOpen = s.busOpen ∧ t.curAddr = s.curAddr ∧ t.curAddrValid = s.curAddrValid

/-- No bus event was issued and no answer of the environment was used. -/
abbrev NoBus (s t : State) : Prop := t.trace = s.trace ∧ t.answers = s.answers

/-- The parameters and what the host issues next are unchanged. -/
abbrev SameInputs (s t : State) : Prop := t.params = s.params ∧ t.pending = s.pending

/-! ## Events -/

/-- A bus write. -/
def isWrite : Event → Bool
  | .evWrite _ _ => true
  | .evOpen _ _ | .evSetAddr _ _ | .evRead _ _ _ | .evDelay _ => false

/-- A bus read. -/
def isRead : Event → Bool
  | .evRead _ _ _ => true
  | .evOpen _ _ | .evSetAddr _ _ | .evWrite _ _ | .evDelay _ => false

/-- A transfer or the wake delay: what may follow the bus handle's events. -/
def isTransfer : Event → Bool
  | .evWrite _ _ | .evRead _ _ _ | .evDelay _ => true
  | .evOpen _ _ | .evSetAddr _ _ => false

/-- `BusRead(len)` in `s` answers exactly `len` bytes `d`, and `s'` is `s` with the event recorded. -/
def ReadsFull (len : Nat) (s : State) (d : List Byte) (s' : State) : Prop :=
  readReply len s = .ok d ∧ d.length = len ∧
  s' = { s with
    answers := { s.answers with reads := s.answers.reads.tail }
    trace := s.trace ++ [.evRead len (.count len) d] }

/-- `BusRead(len)` in `s` is short (40_bus_handle.md R114), and `s'` is `s` with the event recorded. -/
def ReadsShort (len : Nat) (s s' : State) : Prop :=
  ∃ c d, c ≠ Count.count len ∧
    (readReply len s = .err ∧ c = .err ∧ d = [] ∨ readReply len s = .ok d ∧ c = .count d.length) ∧
    s' = { s with
      answers := { s.answers with reads := s.answers.reads.tail }
      trace := s.trace ++ [.evRead len c d] }

/-- `BusWrite(bs)` in `s` returns the count `c`, and `s'` is `s` with the event recorded. -/
def WritesWith (bs : List Byte) (c : Count) (s s' : State) : Prop :=
  (writeReply bs s = .err ∧ c = .err ∨ ∃ n, writeReply bs s = .ok n ∧ c = .count n) ∧
  s' = { s with
    answers := { s.answers with writes := s.answers.writes.tail }
    trace := s.trace ++ [.evWrite bs c] }

/-- `s` with one more response, all of whose fields but the status are 0 or `[]`. -/
def answered (e : Status) (s : State) : State := { s with responses := s.responses ++ [⟨e, 0, 0, []⟩] }

/-- The bytes `bs` stand in the cells from `o` on. -/
abbrev Holds (m : Memory) (o : Nat) (bs : List Byte) : Prop := ∀ k, k < bs.length → m.readByte (o + k) = bs[k]?

/-- `m'` is `m` with the bytes `bs` in the cells from `o` on: those cells hold them, every other reads as before. -/
def Stored (m m' : Memory) (o : Nat) (bs : List Byte) : Prop :=
  Holds m' o bs ∧ ∀ a, a < o ∨ o + bs.length ≤ a → m'.readByte a = m.readByte a

/-- `s` with the transmit registers and buffer of `u`. -/
def withTxOf (u s : State) : State :=
  { s with txState := u.txState, txLen := u.txLen, txOff := u.txOff, txb := u.txb }

/-- `s` with the receive registers and buffer of `u`. -/
def withRxOf (u s : State) : State :=
  { s with rxState := u.rxState, rxLen := u.rxLen, rxOff := u.rxOff, rxb := u.rxb }

/-! ## The spec's tables -/

/-- The operands of an instruction, one field of 30_encoding.md R87 each; none where the command has no such field. -/
structure Operands where
  bus : Option Byte
  addr : Option Byte
  len : Option Half
  z : Option Bool
  p : Option Bool
  din : Option (List Byte)
  deriving DecidableEq, Repr

/-- The operands an instruction holds. -/
def operandsOf : Instr → Operands
  | .sendStart bus addr len => ⟨some bus, some addr, some len, none, none, none⟩
  | .sendContinue z len din => ⟨none, none, some len, some z, none, some din⟩
  | .sendStop p bus addr len din => ⟨some bus, some addr, some len, none, some p, some din⟩
  | .sendSingle bus addr len din => ⟨some bus, some addr, some len, none, none, some din⟩
  | .wake bus addr => ⟨some bus, some addr, none, none, none, none⟩
  | .recvStart bus addr len => ⟨some bus, some addr, some len, none, none, none⟩
  | .recvContinue len => ⟨none, none, some len, none, none, none⟩
  | .recvStop len => ⟨none, none, some len, none, none, none⟩
  | .recvSingle bus addr => ⟨some bus, some addr, none, none, none, none⟩
  | .crcCalculate len din => ⟨none, none, some len, none, none, some din⟩
  | .crcAccumulate len din => ⟨none, none, some len, none, none, some din⟩

/-- The opcode of each command (30_encoding.md R84). -/
def opcodeNumber : Instr → Nat
  | .sendStart _ _ _ => 0x1
  | .sendContinue _ _ _ => 0x2
  | .sendStop _ _ _ _ _ => 0x3
  | .sendSingle _ _ _ _ => 0x4
  | .wake _ _ => 0x5
  | .recvStart _ _ _ => 0x6
  | .recvContinue _ => 0x7
  | .recvStop _ => 0x8
  | .recvSingle _ _ => 0x9
  | .crcCalculate _ _ => 0xA
  | .crcAccumulate _ _ => 0xB

/-- Every operand of `i` is the field of the command's bits that 30_encoding.md R87 names, as an unsigned number, and its
data string is `DIN`. -/
abbrev OperandsFrom (c : Command) (i : Instr) : Prop :=
  (∀ b ∈ (operandsOf i).bus, b.toNat = c.cmd.toNat / 2 ^ 8 % 2 ^ 8) ∧
  (∀ a ∈ (operandsOf i).addr, a.toNat = c.cmd.toNat / 2 ^ 16 % 2 ^ 8) ∧
  (∀ l ∈ (operandsOf i).len, l.toNat = c.arg.toNat % 2 ^ 16) ∧
  (∀ z ∈ (operandsOf i).z, z = c.cmd.toNat.testBit 4) ∧
  (∀ p ∈ (operandsOf i).p, p = c.cmd.toNat.testBit 5) ∧
  (∀ d ∈ (operandsOf i).din, d = c.din)

/-- The rows of 30_encoding.md R85: `OPC`, `CMD` match and `CMD` mask. -/
def cmdRows : List (Nat × Word × Word) :=
  [(0x1, 0x00000001, 0xFF0000FF), (0x2, 0x00000002, 0xFFFFFFEF), (0x3, 0x00000003, 0xFF0000DF),
   (0x4, 0x00000004, 0xFF0000FF), (0x5, 0x00000005, 0xFF0000FF), (0x6, 0x00000006, 0xFF0000FF)] ++
  [(0x7, 0x00000007, 0xFFFFFFFF), (0x8, 0x00000008, 0xFFFFFFFF), (0x9, 0x00000009, 0xFF0000FF),
   (0xA, 0x0000000A, 0xFFFFFFFF), (0xB, 0x0000000B, 0xFFFFFFFF)]

/-- The length of `DIN` that 30_encoding.md R83 gives, from the command's bits. -/
def dinLength (c : Command) : Nat :=
  let opc := c.cmd.toNat % 16
  if (opc = 2 ∧ c.cmd.getLsbD 4 = false) ∨ (opc = 3 ∧ c.cmd.getLsbD 5 = true) ∨ opc = 4 ∨ opc = 0xA ∨ opc = 0xB
  then c.arg.toNat % 65536 else 0

/-- A command that 30_encoding.md R86 does not refuse, from R83, R85 and the rows above. -/
abbrev Legal (c : Command) : Prop :=
  (∃ row ∈ cmdRows, c.cmd.toNat % 16 = row.1 ∧ c.cmd &&& row.2.2 = row.2.1) ∧
  c.arg.toNat / 65536 = 0 ∧
  (c.cmd.toNat % 16 = 5 ∨ c.cmd.toNat % 16 = 9 → c.arg.toNat % 65536 = 0) ∧
  (c.cmd.toNat % 16 = 3 → c.cmd.getLsbD 5 = false → c.arg.toNat % 65536 = 0) ∧
  c.din.length = dinLength c

/-- The five commands that use the bus, with their `BUS` and `ADDR` fields (40_bus_handle.md R115). -/
def busFields : Instr → Option (Byte × Byte)
  | .sendStop _ bus addr _ _ | .sendSingle bus addr _ _ | .wake bus addr | .recvStart bus addr _
  | .recvSingle bus addr => some (bus, addr)
  | .sendStart _ _ _ | .sendContinue _ _ _ | .recvContinue _ | .recvStop _ | .crcCalculate _ _
  | .crcAccumulate _ _ => none

/-- The statuses 60_exceptions.md R210 lets each command raise, `ILLEGAL_COMMAND` apart (the decoder's). -/
def statusesOf : Instr → List Status
  | .sendStart _ _ _ => [.ok, .bufferOverflow]
  | .sendContinue _ _ _ => [.ok, .sequenceError, .bufferOverflow]
  | .sendStop _ _ _ _ _ =>
    [.ok, .sequenceError, .bufferOverflow, .busOpenError, .busAddressError, .busWriteError]
  | .sendSingle _ _ _ _ | .wake _ _ => [.ok, .busOpenError, .busAddressError, .busWriteError]
  | .recvStart _ _ _ => [.ok, .bufferOverflow, .busOpenError, .busAddressError, .busAckError]
  | .recvContinue _ | .recvStop _ => [.ok, .sequenceError, .bufferUnderflow]
  | .recvSingle _ _ => [.ok, .busOpenError, .busAddressError, .busReadError, .bufferOverflow]
  | .crcCalculate _ _ | .crcAccumulate _ _ => [.ok]

/-- The transition table of 41_transmit.md R130: the state after a command that answered with a status, for the rows
the table has; every other command leaves the state. -/
def txAfter (i : Instr) (st : TxState) (e : Status) : TxState :=
  match i with
  | .sendStart _ _ _ => if e = .ok then .assembling else st
  | .sendStop _ _ _ _ _ => .idle
  | .sendContinue _ _ _ | .sendSingle _ _ _ _ | .wake _ _ | .recvStart _ _ _ | .recvContinue _ | .recvStop _
  | .recvSingle _ _ | .crcCalculate _ _ | .crcAccumulate _ _ => st

/-- The transition table of 42_receive.md R160, as `txAfter`. -/
def rxAfter (i : Instr) (st : RxState) (e : Status) : RxState :=
  match i with
  | .recvStart _ _ _ => if e = .ok then .filled else st
  | .recvStop _ => if e = .ok then .idle else st
  | .sendStart _ _ _ | .sendContinue _ _ _ | .sendStop _ _ _ _ _ | .sendSingle _ _ _ _ | .wake _ _
  | .recvContinue _ | .recvSingle _ _ | .crcCalculate _ _ | .crcAccumulate _ _ => st

/-- The transfers of a command that answered `OK`, after its open and set-address events (20_memory.md R72);
`n` is `TX_OFF` after the command. -/
def transfersFit (i : Instr) (n : Nat) (evs : List Event) : Prop :=
  match i with
  | .sendStop _ _ _ _ _ => ∃ bs, bs.length = n ∧ evs = [.evWrite bs (.count n)]
  | .sendSingle _ _ len din => evs = [.evWrite din (.count len.toNat)]
  | .wake _ _ => evs = [.evWrite [0x00] (.count 1), .evDelay 5]
  | .recvStart _ _ len => ∃ d, evs = [.evRead len.toNat (.count len.toNat) d]
  | .recvSingle _ _ =>
    ∃ (h hi lo : Byte) (L : Nat) (p : List Byte), L = hi.toNat * 256 + lo.toNat ∧
      evs = [.evRead 1 (.count 1) [h], .evRead 2 (.count 2) [hi, lo], .evRead L (.count L) p]
  | .sendStart _ _ _ | .sendContinue _ _ _ | .recvContinue _ | .recvStop _ | .crcCalculate _ _
  | .crcAccumulate _ _ => evs = []

/-- The events of a bus handle that succeeds: an open unless the bus is open, then a set-address unless the address is
cached (40_bus_handle.md R110, R111, R115). -/
def handleEvents (bus addr : Byte) (s : State) : List Event :=
  (if s.busOpen then [] else [.evOpen bus .ok]) ++
  (if s.curAddrValid = true ∧ s.curAddr = addr then [] else [.evSetAddr addr .ok])

/-- The events of a bus handle that fails: the open, or the set-address after an open where one was needed. -/
def handleFailures (bus addr : Byte) (s : State) : List (List Event) :=
  (if s.busOpen then [] else [[.evOpen bus .err]]) ++
  (if s.curAddrValid = true ∧ s.curAddr = addr then []
    else [(if s.busOpen then [] else [.evOpen bus .ok]) ++ [.evSetAddr addr .err]])

/-! ## What a bus command does before its transfers -/

/-- The checks a bus command makes before it calls the bus, failed: SEND_STOP's state and its final element
(41_transmit.md R137), RECV_START's capacity (42_receive.md R161). -/
def failsOwnChecks (i : Instr) (s : State) : Prop :=
  match i with
  | .sendStop p _ _ len _ => s.txState ≠ .assembling ∨ (p = true ∧ s.txLen.toNat < s.txOff.toNat + len.toNat)
  | .recvStart _ _ len => s.params.rxCapacity < len.toNat
  | .sendStart _ _ _ | .sendContinue _ _ _ | .sendSingle _ _ _ _ | .wake _ _ | .recvContinue _ | .recvStop _
  | .recvSingle _ _ | .crcCalculate _ _ | .crcAccumulate _ _ => False

/-- `CUR_ADDR` is valid and is `addr` (40_bus_handle.md R111). -/
abbrev AddressCached (addr : Byte) (s : State) : Prop := s.curAddrValid = true ∧ s.curAddr = addr

/-- `s` after the open of a bus handle, where the bus is open or opens (40_bus_handle.md R110). -/
def afterOpen (bus : Byte) (s : State) : State :=
  if s.busOpen then s
  else { s with
    busOpen := true
    answers := { s.answers with opens := s.answers.opens.tail }
    trace := s.trace ++ [.evOpen bus .ok] }

/-- `s` after the set-address of a bus handle, where the address is cached or is set (40_bus_handle.md R111). -/
def afterSetAddr (addr : Byte) (s : State) : State :=
  if AddressCached addr s then s
  else { s with
    curAddr := addr
    curAddrValid := true
    answers := { s.answers with setAddrs := s.answers.setAddrs.tail }
    trace := s.trace ++ [.evSetAddr addr .ok] }

/-- The bus is open, or the environment answers the open with `OK`. -/
abbrev Opens (bus : Byte) (s : State) : Prop := s.busOpen = true ∨ openReply bus s = .ok ()

/-- A bus handle in `s` makes the call `c`, in the state `u`, and the environment never answers it (20_memory.md R66):
the open, or the set-address after it. -/
def HandleUnanswered (bus addr : Byte) (s u : State) (c : BusCall) : Prop :=
  (s.busOpen = false ∧ openReply bus s = .never ∧ u = s ∧ c = .openBus bus) ∨
  (Opens bus s ∧ ¬ AddressCached addr s ∧ setAddrReply addr (afterOpen bus s) = .never ∧ u = afterOpen bus s ∧
    c = .setAddr addr)

/-! ## Frames over several commands -/

/-- Run instructions one after the other (20_memory.md R65). -/
def execAll : List Instr → State → Host.Outcome State Fault Refusal
  | [], s => .next s
  | i :: is, s =>
    match exec i s with
    | .next t => execAll is t
    | .fault f => .fault f
    | .refused r => .refused r

/-- A SEND_CONTINUE, or a command that is no transmit command (41_transmit.md lists those). -/
def betweenTransmit : Instr → Bool
  | .sendContinue _ _ _ | .recvStart _ _ _ | .recvContinue _ | .recvStop _ | .recvSingle _ _ | .crcCalculate _ _
  | .crcAccumulate _ _ => true
  | .sendStart _ _ _ | .sendStop _ _ _ _ _ | .sendSingle _ _ _ _ | .wake _ _ => false

/-- A RECV_CONTINUE, or a command that is no receive command (42_receive.md lists those). -/
def betweenReceive : Instr → Bool
  | .recvContinue _ | .sendStart _ _ _ | .sendContinue _ _ _ | .sendStop _ _ _ _ _ | .sendSingle _ _ _ _ | .wake _ _
  | .crcCalculate _ _ | .crcAccumulate _ _ => true
  | .recvStart _ _ _ | .recvStop _ | .recvSingle _ _ => false

/-- The bytes a SEND_CONTINUE or a final element adds to the frame (41_transmit.md R142). -/
def chunkOf : Instr → List Byte
  | .sendContinue z len din => if z then List.replicate len.toNat 0x00 else din
  | .sendStop p _ _ _ din => if p then din else []
  | .sendStart _ _ _ | .sendSingle _ _ _ _ | .wake _ _ | .recvStart _ _ _ | .recvContinue _ | .recvStop _
  | .recvSingle _ _ | .crcCalculate _ _ | .crcAccumulate _ _ => []

/-- The bytes a CRC_ACCUMULATE folds (43_crc.md R195). -/
def accumulatedBy : Instr → List Byte
  | .crcAccumulate _ din => din
  | .sendStart _ _ _ | .sendContinue _ _ _ | .sendStop _ _ _ _ _ | .sendSingle _ _ _ _ | .wake _ _
  | .recvStart _ _ _ | .recvContinue _ | .recvStop _ | .recvSingle _ _ | .crcCalculate _ _ => []

/-- How many bytes of the received frame a command asks for (42_receive.md R173). -/
def takenOf : Instr → Nat
  | .recvContinue len | .recvStop len => len.toNat
  | .sendStart _ _ _ | .sendContinue _ _ _ | .sendStop _ _ _ _ _ | .sendSingle _ _ _ _ | .wake _ _
  | .recvStart _ _ _ | .recvSingle _ _ | .crcCalculate _ _ | .crcAccumulate _ _ => 0

/-! ## States that differ in unobservable values only -/

/-- Two states agree but for `CRC_REG` and the values that 10_state.md R34 calls unspecified and unobservable: the
transmit registers outside `ASSEMBLING` and the cells from `TX_OFF` on, the receive registers outside `FILLED` and the
cells from `RX_LEN` on, and `CUR_ADDR` while it is not valid. -/
def Indistinguishable (s t : State) : Prop :=
  s.params = t.params ∧ s.pending = t.pending ∧ s.answers = t.answers ∧ s.trace = t.trace ∧
  s.responses = t.responses ∧ s.busOpen = t.busOpen ∧ s.curAddrValid = t.curAddrValid ∧
  (s.curAddrValid = true → s.curAddr = t.curAddr) ∧
  s.txState = t.txState ∧
  (s.txState = .assembling → s.txLen = t.txLen ∧ s.txOff = t.txOff ∧
    ∀ o, o < s.txOff.toNat → s.txb.readByte o = t.txb.readByte o) ∧
  s.rxState = t.rxState ∧
  (s.rxState = .filled → s.rxLen = t.rxLen ∧ s.rxOff = t.rxOff ∧
    ∀ o, o < s.rxLen.toNat → s.rxb.readByte o = t.rxb.readByte o)

/-- Two outcomes are both next states that `R` relates, or both hang, in states that `R` relates, on the same unanswered
bus call. -/
def OutcomesMatch (R : State → State → Prop) :
    Host.Outcome State Fault Refusal → Host.Outcome State Fault Refusal → Prop
  | .next s, .next t => R s t
  | .fault (.stuck s c), .fault (.stuck t d) => R s t ∧ c = d
  | _, _ => False

end Sys2Proof.Safety
end

