-- ==== Sys2Proof/Certificates/Slice0/Obligations.lean ====
section
/-! DEFINITION. The statements for the provers, in the order of the spec's files: encoding (30), bus handle (40), transmit
(41), receive (42), CRC (43), errors (60), whole-machine rules (10, 20, 70). -/

open Sys2Proof Sys2Proof.Machine Sys2Proof.Safety

/-! ## Encoding -/

/-- The decoder reads every well-formed instruction back from its words (30_encoding.md R81 to R87). -/
def Obligations.DecodeReadsEncodeBack : Prop :=
  ∀ i : Instr, i.wellFormed = true → decode (encode i) = .ok i

/-- A command that decodes is well-formed and is exactly the words of its instruction: no bit of it is dropped
(30_encoding.md R81 to R87). -/
def Obligations.EncodeReproducesDecodedWords : Prop :=
  ∀ (c : Command) (i : Instr), decode c = .ok i → i.wellFormed = true ∧ encode i = c

/-- 30_encoding.md R83 and R86, from the literal rows of R84 and R85: a legal command is dispatched to its opcode's
command with its operands, any other answers ILLEGAL_COMMAND and changes nothing else. -/
def Obligations.DecoderDispatchesExactlyLegalCommands : Prop :=
  ∀ (s : State) (c : Command) (cs : List Command), s.pending = c :: cs →
    (Legal c → ∃ i, opcodeNumber i = c.cmd.toNat % 2 ^ 4 ∧ OperandsFrom c i ∧
      step s = exec i { s with pending := cs }) ∧
    (¬ Legal c → step s = .next (answered .illegalCommand { s with pending := cs }))

/-- 30_encoding.md R87: each operand is the field of the command's bits that the rule names, as an unsigned number. -/
def Obligations.OperandsAreTheFields : Prop :=
  ∀ (c : Command) (i : Instr), decode c = .ok i → OperandsFrom c i

/-- Words written out from 30_encoding.md R81, R82, R84 and R85 decode to the instructions they stand for
(95_test_vectors.md V-ENC-1, 4, 6, 8, 9, 12, 13). -/
def Obligations.SpecWordsDecode : Prop :=
  decode ⟨0x00480101, 0x00000004, []⟩ = .ok (.sendStart 1 0x48 4) ∧
  decode ⟨0x00000012, 0x00000002, []⟩ = .ok (.sendContinue true 2 []) ∧
  decode ⟨0x00480123, 0x00000002, [0x03, 0x04]⟩ = .ok (.sendStop true 1 0x48 2 [0x03, 0x04]) ∧
  decode ⟨0x00480105, 0x00000000, []⟩ = .ok (.wake 1 0x48) ∧
  decode ⟨0x00480106, 0x00000003, []⟩ = .ok (.recvStart 1 0x48 3) ∧
  decode ⟨0x00480109, 0x00000000, []⟩ = .ok (.recvSingle 1 0x48) ∧
  decode ⟨0x0000000B, 0x00000001, [0xFF]⟩ = .ok (.crcAccumulate 1 [0xFF])

/-- A step runs the decoded instruction on the state without the command (30_encoding.md R86, 20_memory.md R65; the list
of commands the host issues is the model's, log entry 1). -/
def Obligations.StepRunsDecodedInstruction : Prop :=
  ∀ (s : State) (c : Command) (cs : List Command) (i : Instr), s.pending = c :: cs → decode c = .ok i →
    step s = exec i { s with pending := cs }

/-- With no command to take, a step changes nothing. The model's choice, log entry 1 (10_state.md R21: what comes next
is entirely the host's). -/
def Obligations.StepWithoutCommandWaits : Prop :=
  ∀ s : State, s.pending = [] → step s = .next s

/-- One command gives one response, and no step is refused (30_encoding.md R80, 20_memory.md R65). -/
def Obligations.StepAnswersOneCommand : Prop :=
  ∀ s : State, (∀ r, step s ≠ .refused r) ∧
    ∀ (t : State) (c : Command) (cs : List Command), s.pending = c :: cs → step s = .next t →
      t.pending = cs ∧ ∃ r, t.responses = s.responses ++ [r]

/-! ## The bus handle -/

/-- 40_bus_handle.md R110: a no-op once open; else one event, and `BUS_OPEN` set on success only. -/
def Obligations.EnsureOpenOpensOnce : Prop :=
  ∀ (bus : Byte) (s : State),
    (s.busOpen = true → ensureOpen bus s = .ok () s) ∧
    (s.busOpen = false → openReply bus s = .ok () →
      ensureOpen bus s = .ok () { s with
        busOpen := true
        answers := { s.answers with opens := s.answers.opens.tail }
        trace := s.trace ++ [.evOpen bus .ok] }) ∧
    (s.busOpen = false → openReply bus s = .err →
      ensureOpen bus s = .raised .busOpenError { s with
        answers := { s.answers with opens := s.answers.opens.tail }
        trace := s.trace ++ [.evOpen bus .err] })

/-- 40_bus_handle.md R111: a no-op when the address is cached; else one event, the address cached on success and no
address cached on failure. -/
def Obligations.EnsureAddressedCaches : Prop :=
  ∀ (addr : Byte) (s : State),
    (s.curAddrValid = true ∧ s.curAddr = addr → ensureAddressed addr s = .ok () s) ∧
    (¬ (s.curAddrValid = true ∧ s.curAddr = addr) → setAddrReply addr s = .ok () →
      ensureAddressed addr s = .ok () { s with
        curAddr := addr
        curAddrValid := true
        answers := { s.answers with setAddrs := s.answers.setAddrs.tail }
        trace := s.trace ++ [.evSetAddr addr .ok] }) ∧
    (¬ (s.curAddrValid = true ∧ s.curAddr = addr) → setAddrReply addr s = .err →
      ensureAddressed addr s = .raised .busAddressError { s with
        curAddrValid := false
        answers := { s.answers with setAddrs := s.answers.setAddrs.tail }
        trace := s.trace ++ [.evSetAddr addr .err] })

/-- 40_bus_handle.md R115: the events of a bus command that passes its own checks are those of its bus handle, then, only
if it succeeded, those of its transfers; a failed open or set-address is the last event. A bus command that fails its
own checks calls nothing. -/
def Obligations.BusEventsInOrder : Prop :=
  ∀ (i : Instr) (bus addr : Byte) (s t : State), busFields i = some (bus, addr) → exec i s = .next t →
    (failsOwnChecks i s → t.trace = s.trace) ∧
    (¬ failsOwnChecks i s →
      (∃ evs ∈ handleFailures bus addr s, t.trace = s.trace ++ evs) ∨
      (∃ tr, tr ≠ [] ∧ (∀ e ∈ tr, isTransfer e = true) ∧ t.trace = s.trace ++ handleEvents bus addr s ++ tr))

/-- 40_bus_handle.md R116: the six other commands leave the bus handle, the trace and the environment's answers alone,
and never wait for the bus. -/
def Obligations.SixCommandsNeverTouchTheBus : Prop :=
  ∀ (i : Instr) (s : State), busFields i = none →
    (∀ t, exec i s = .next t → SameHandle s t ∧ NoBus s t) ∧ (∀ u c, exec i s ≠ .fault (.stuck u c))

/-- 70_reset_and_hazards.md R253: once the bus is open, the BUS field changes nothing. -/
def Obligations.OpenBusIgnoresTheBusField : Prop :=
  ∀ (b b' addr : Byte) (p : Bool) (len : Half) (din : List Byte) (s : State), s.busOpen = true →
    exec (.sendStart b addr len) s = exec (.sendStart b' addr len) s ∧
    exec (.sendStop p b addr len din) s = exec (.sendStop p b' addr len din) s ∧
    exec (.sendSingle b addr len din) s = exec (.sendSingle b' addr len din) s ∧
    exec (.wake b addr) s = exec (.wake b' addr) s ∧
    exec (.recvStart b addr len) s = exec (.recvStart b' addr len) s ∧
    exec (.recvSingle b addr) s = exec (.recvSingle b' addr) s

/-! ## Transmit -/

/-- 41_transmit.md R131, R132, R133 and R143: SEND_START in either state. -/
def Obligations.SendStartDeclaresFrame : Prop :=
  ∀ (bus addr : Byte) (len : Half) (s : State),
    ((encode (.sendStart bus addr len)).cmd &&& 0xFF0000FF = 0x00000001 ∧
      (encode (.sendStart bus addr len)).din = []) ∧
    (len.toNat ≤ s.params.txCapacity →
      exec (.sendStart bus addr len) s =
        .next (answered .ok { s with txLen := len, txOff := 0, txState := .assembling })) ∧
    (s.params.txCapacity < len.toNat →
      exec (.sendStart bus addr len) s = .next (answered .bufferOverflow s))

/-- 41_transmit.md R134, R135 and R136: SEND_CONTINUE with data and with zero fill. -/
def Obligations.SendContinueAppends : Prop :=
  ∀ (z : Bool) (len : Half) (din : List Byte) (s : State), (Instr.sendContinue z len din).wellFormed = true →
    (encode (.sendContinue z len din)).cmd &&& 0xFFFFFFEF = 0x00000002 ∧
    (s.txState ≠ .assembling → exec (.sendContinue z len din) s = .next (answered .sequenceError s)) ∧
    (s.txState = .assembling → s.txLen.toNat < s.txOff.toNat + len.toNat →
      exec (.sendContinue z len din) s = .next (answered .bufferOverflow s)) ∧
    (s.txState = .assembling → s.txOff.toNat + len.toNat ≤ s.txLen.toNat →
      s.txLen.toNat ≤ s.params.txCapacity →
      ∃ m off, off.toNat = s.txOff.toNat + len.toNat ∧
        Stored s.txb m s.txOff.toNat (if z then List.replicate len.toNat 0x00 else din) ∧
        exec (.sendContinue z len din) s = .next (answered .ok { s with txb := m, txOff := off }))

/-- 41_transmit.md R140: SEND_STOP sends exactly `TXB[0 .. TX_OFF)`, the optional final element appended, in one write,
under-filled and empty frames included, and is short when the count is any other. -/
def Obligations.SendStopSendsAssembledBytes : Prop :=
  ∀ (p : Bool) (bus addr : Byte) (len : Half) (din old : List Byte) (c : Count) (s s1 s2 : State),
    (Instr.sendStop p bus addr len din).wellFormed = true → s.txState = .assembling →
    old.length = s.txOff.toNat → Holds s.txb 0 old →
    s.txOff.toNat + len.toNat ≤ s.txLen.toNat → s.txLen.toNat ≤ s.params.txCapacity →
    connect bus addr s = .ok () s1 → WritesWith (old ++ (if p then din else [])) c s1 s2 →
    ∃ m off, off.toNat = s.txOff.toNat + len.toNat ∧
      Stored s.txb m s.txOff.toNat (if p then din else []) ∧
      exec (.sendStop p bus addr len din) s =
        .next (answered (if c = .count off.toNat then .ok else .busWriteError)
          { s2 with txState := .idle, txb := m, txOff := off })

/-- A SEND_STOP whose open or set-address fails ends with that status; the append stays and nothing is sent
(41_transmit.md R137, 60_exceptions.md R217). -/
def Obligations.SendStopBusHandleError : Prop :=
  ∀ (p : Bool) (bus addr : Byte) (len : Half) (din : List Byte) (e : Status) (s s1 : State),
    (Instr.sendStop p bus addr len din).wellFormed = true → s.txState = .assembling →
    s.txOff.toNat + len.toNat ≤ s.txLen.toNat → s.txLen.toNat ≤ s.params.txCapacity →
    connect bus addr s = .raised e s1 →
    ∃ m off, off.toNat = s.txOff.toNat + len.toNat ∧
      Stored s.txb m s.txOff.toNat (if p then din else []) ∧
      exec (.sendStop p bus addr len din) s =
        .next (answered e { s1 with txState := .idle, txb := m, txOff := off })

/-- 41_transmit.md R138: a final element that would pass TX_LEN ends the frame and sends nothing. -/
def Obligations.SendStopOverflowSendsNothing : Prop :=
  ∀ (bus addr : Byte) (len : Half) (din : List Byte) (s : State), s.txState = .assembling →
    s.txLen.toNat < s.txOff.toNat + len.toNat →
    exec (.sendStop true bus addr len din) s = .next (answered .bufferOverflow { s with txState := .idle })

/-- 41_transmit.md R139: after a SEND_STOP the assembler is IDLE and stays so until a SEND_START; until then every
SEND_CONTINUE and SEND_STOP raises SEQUENCE_ERROR. -/
def Obligations.SendStopEndsFrame : Prop :=
  ∀ (p : Bool) (bus addr : Byte) (len : Half) (din : List Byte) (mid : List Instr) (s t u : State),
    exec (.sendStop p bus addr len din) s = .next t →
    (∀ i ∈ mid, ∀ bus' addr' len', i ≠ .sendStart bus' addr' len') → execAll mid t = .next u →
    t.txState = .idle ∧ u.txState = .idle ∧
    (∀ z len' din', exec (.sendContinue z len' din') u = .next (answered .sequenceError u)) ∧
    (∀ p' bus' addr' len' din', exec (.sendStop p' bus' addr' len' din') u = .next (answered .sequenceError u))

/-- 41_transmit.md R141: a SEND_STOP that fails at the bus leaves its append in place, and whatever commands follow, no
SEND_STOP sends it before a SEND_START, which resets TX_OFF to 0. -/
def Obligations.FailedFlushKeepsTheAppend : Prop :=
  ∀ (bus addr : Byte) (len : Half) (din : List Byte) (e : Status) (s t : State),
    (Instr.sendStop true bus addr len din).wellFormed = true →
    exec (.sendStop true bus addr len din) s = .next t → t.responses = s.responses ++ [⟨e, 0, 0, []⟩] →
    e = .busOpenError ∨ e = .busAddressError ∨ e = .busWriteError →
    t.txOff.toNat = s.txOff.toNat + len.toNat ∧ Stored s.txb t.txb s.txOff.toNat din ∧ t.txState = .idle ∧
    ∀ (mid : List Instr) (u : State), (∀ i ∈ mid, ∀ bus' addr' len', i ≠ .sendStart bus' addr' len') →
      execAll mid t = .next u →
      u.txOff = t.txOff ∧ (∀ a, u.txb.readByte a = t.txb.readByte a) ∧
      (∀ p' bus' addr' len' din', exec (.sendStop p' bus' addr' len' din') u = .next (answered .sequenceError u)) ∧
      (∀ bus' addr' len' v, exec (.sendStart bus' addr' len') u = .next v → v.txState = .assembling → v.txOff = 0)

/-- 41_transmit.md R144: SEND_SINGLE writes its data in one bus write, whatever TX_CAPACITY is. -/
def Obligations.SendSingleWritesOnce : Prop :=
  ∀ (bus addr : Byte) (len : Half) (din : List Byte) (s : State),
    (Instr.sendSingle bus addr len din).wellFormed = true →
    (encode (.sendSingle bus addr len din)).cmd &&& 0xFF0000FF = 0x00000004 ∧
    (∀ e s1, connect bus addr s = .raised e s1 → exec (.sendSingle bus addr len din) s = .next (answered e s1)) ∧
    (∀ s1 c s2, connect bus addr s = .ok () s1 → WritesWith din c s1 s2 →
      exec (.sendSingle bus addr len din) s =
        .next (answered (if c = .count len.toNat then .ok else .busWriteError) s2))

/-- 41_transmit.md R147 and R148: WAKE writes one zero byte and then waits 5 ms; a short write raises BUS_WRITE_ERROR
and no delay follows. -/
def Obligations.WakeWritesZeroThenDelays : Prop :=
  ∀ (bus addr : Byte) (s : State),
    ((encode (.wake bus addr)).cmd &&& 0xFF0000FF = 0x00000005 ∧ (encode (.wake bus addr)).arg = 0 ∧
      (encode (.wake bus addr)).din = []) ∧
    (∀ e s1, connect bus addr s = .raised e s1 → exec (.wake bus addr) s = .next (answered e s1)) ∧
    (∀ s1 s2, connect bus addr s = .ok () s1 → WritesWith [0x00] (.count 1) s1 s2 →
      exec (.wake bus addr) s = .next (answered .ok { s2 with trace := s2.trace ++ [.evDelay 5] })) ∧
    (∀ s1 c s2, connect bus addr s = .ok () s1 → WritesWith [0x00] c s1 s2 → c ≠ .count 1 →
      exec (.wake bus addr) s = .next (answered .busWriteError s2))

/-- 10_state.md R34 (written by, read by), 41_transmit.md R144, R145, R147 and 42_receive.md R170, R172: SEND_SINGLE, WAKE and RECV_SINGLE neither read nor write the transmit and
receive registers and buffers. Whatever these hold, the outcome is the same and they are as before. -/
def Obligations.DirectCommandsIgnoreFrames : Prop :=
  ∀ (i : Instr) (s t u : State),
    (∃ bus addr len din, i = .sendSingle bus addr len din) ∨ (∃ bus addr, i = .wake bus addr) ∨
      (∃ bus addr, i = .recvSingle bus addr) →
    exec i s = .next t →
    exec i (withTxOf u s) = .next (withTxOf u t) ∧ exec i (withRxOf u s) = .next (withRxOf u t)

/-! ## Receive -/

/-- 42_receive.md R161 and R163: RECV_START in either state. -/
def Obligations.RecvStartFillsFrame : Prop :=
  ∀ (bus addr : Byte) (len : Half) (s : State),
    ((encode (.recvStart bus addr len)).cmd &&& 0xFF0000FF = 0x00000006 ∧
      (encode (.recvStart bus addr len)).din = []) ∧
    (s.params.rxCapacity < len.toNat → exec (.recvStart bus addr len) s = .next (answered .bufferOverflow s)) ∧
    (∀ e s1, len.toNat ≤ s.params.rxCapacity → connect bus addr s = .raised e s1 →
      exec (.recvStart bus addr len) s = .next (answered e s1)) ∧
    (∀ d s1 s2, len.toNat ≤ s.params.rxCapacity → connect bus addr s = .ok () s1 → ReadsFull len.toNat s1 d s2 →
      ∃ m, Stored s.rxb m 0 d ∧
        exec (.recvStart bus addr len) s =
          .next (answered .ok { s2 with rxb := m, rxLen := len, rxOff := 0, rxState := .filled })) ∧
    (∀ s1 s2, len.toNat ≤ s.params.rxCapacity → connect bus addr s = .ok () s1 → ReadsShort len.toNat s1 s2 →
      ∃ m drawn, drawn.length = len.toNat ∧ Stored s.rxb m 0 drawn ∧
        exec (.recvStart bus addr len) s = .next (answered .busAckError { s2 with rxb := m }))

/-- 42_receive.md R162: a RECV_START that raises any error leaves RX_STATE, RX_LEN and RX_OFF, and writes cells only on
BUS_ACK_ERROR and only below `len`. -/
def Obligations.FailedRecvStartKeepsControlState : Prop :=
  ∀ (bus addr : Byte) (len : Half) (e : Status) (s t : State), exec (.recvStart bus addr len) s = .next t →
    t.responses = s.responses ++ [⟨e, 0, 0, []⟩] → e ≠ .ok →
    (t.rxState = s.rxState ∧ t.rxLen = s.rxLen ∧ t.rxOff = s.rxOff) ∧
    (∀ a, e ≠ .busAckError ∨ len.toNat ≤ a → t.rxb.readByte a = s.rxb.readByte a) ∧
    (e = .busAckError → ∀ a, a < len.toNat → (t.rxb.readByte a).isSome = true)

/-- 42_receive.md R164: RECV_CONTINUE returns the next bytes of the frame. (`RX_OFF <= RX_LEN <= RX_CAPACITY` in `FILLED` is
the invariant of `OffsetsStayInBounds`.) -/
def Obligations.RecvContinueReturnsNextBytes : Prop :=
  ∀ (len : Half) (s : State),
    ((encode (.recvContinue len)).cmd = 0x00000007 ∧ (encode (.recvContinue len)).din = []) ∧
    (s.rxState ≠ .filled → exec (.recvContinue len) s = .next (answered .sequenceError s)) ∧
    (s.rxState = .filled → s.rxOff.toNat ≤ s.rxLen.toNat → s.rxLen.toNat - s.rxOff.toNat < len.toNat →
      exec (.recvContinue len) s = .next (answered .bufferUnderflow s)) ∧
    (∀ d, s.rxState = .filled → s.rxOff.toNat + len.toNat ≤ s.rxLen.toNat → s.rxLen.toNat ≤ s.params.rxCapacity →
      d.length = len.toNat → Holds s.rxb s.rxOff.toNat d →
      ∃ off, off.toNat = s.rxOff.toNat + len.toNat ∧
        exec (.recvContinue len) s =
          .next { s with rxOff := off, responses := s.responses ++ [⟨.ok, 0, 0, d⟩] })

/-- 42_receive.md R167 and R168: RECV_STOP returns the last bytes wanted and ends the frame, unless fewer remain. -/
def Obligations.RecvStopEndsFrame : Prop :=
  ∀ (len : Half) (s : State),
    ((encode (.recvStop len)).cmd = 0x00000008 ∧ (encode (.recvStop len)).din = []) ∧
    (s.rxState ≠ .filled → exec (.recvStop len) s = .next (answered .sequenceError s)) ∧
    (s.rxState = .filled → s.rxOff.toNat ≤ s.rxLen.toNat → s.rxLen.toNat - s.rxOff.toNat < len.toNat →
      exec (.recvStop len) s = .next (answered .bufferUnderflow s)) ∧
    (∀ d, s.rxState = .filled → s.rxOff.toNat + len.toNat ≤ s.rxLen.toNat → s.rxLen.toNat ≤ s.params.rxCapacity →
      d.length = len.toNat → Holds s.rxb s.rxOff.toNat d →
      exec (.recvStop len) s =
        .next { s with rxOff := 0, rxState := .idle, responses := s.responses ++ [⟨.ok, 0, 0, d⟩] })

/-- 42_receive.md R166: the only command that takes the receive machine back to IDLE is RECV_STOP, and RECV_STOP 0 does
so from any FILLED frame within bounds, reading nothing. -/
def Obligations.OnlyRecvStopLeavesFilled : Prop :=
  (∀ (i : Instr) (s t : State), exec i s = .next t → s.rxState = .filled → t.rxState = .idle →
    ∃ len, i = .recvStop len) ∧
  (∀ (len : Half) (s t : State), exec (.recvContinue len) s = .next t → s.rxState = .filled → t.rxState = .filled) ∧
  (∀ s : State, s.rxState = .filled → s.rxOff.toNat ≤ s.rxLen.toNat →
    exec (.recvStop 0) s = .next (answered .ok { s with rxOff := 0, rxState := .idle }))

/-- 42_receive.md R170: RECV_SINGLE's three reads, its big-endian length, its bound and every error on the way. -/
def Obligations.RecvSingleReadsRecord : Prop :=
  ∀ (bus addr : Byte) (s : State),
    ((encode (.recvSingle bus addr)).cmd &&& 0xFF0000FF = 0x00000009 ∧ (encode (.recvSingle bus addr)).arg = 0 ∧
      (encode (.recvSingle bus addr)).din = []) ∧
    (∀ e s1, connect bus addr s = .raised e s1 → exec (.recvSingle bus addr) s = .next (answered e s1)) ∧
    ∀ s1, connect bus addr s = .ok () s1 →
      (∀ s2, ReadsShort 1 s1 s2 → exec (.recvSingle bus addr) s = .next (answered .busReadError s2)) ∧
      ∀ h s2, ReadsFull 1 s1 [h] s2 →
        (∀ s3, ReadsShort 2 s2 s3 → exec (.recvSingle bus addr) s = .next (answered .busReadError s3)) ∧
        ∀ hi lo s3, ReadsFull 2 s2 [hi, lo] s3 →
          (s.params.rsMaxPayload < hi.toNat * 256 + lo.toNat →
            exec (.recvSingle bus addr) s = .next (answered .bufferOverflow s3)) ∧
          (hi.toNat * 256 + lo.toNat ≤ s.params.rsMaxPayload →
            (∀ s4, ReadsShort (hi.toNat * 256 + lo.toNat) s3 s4 →
              exec (.recvSingle bus addr) s = .next (answered .busReadError s4)) ∧
            ∀ p s4, ReadsFull (hi.toNat * 256 + lo.toNat) s3 p s4 →
              ∃ result : Half, result.toNat = hi.toNat * 256 + lo.toNat ∧
                exec (.recvSingle bus addr) s =
                  .next { s4 with responses := s4.responses ++ [⟨.ok, result, h, p⟩] })

/-! ## The CRC engine -/

/-- 43_crc.md R191 and R192: the ROM has 256 entries and each is what eight reflected shift steps give; the eight entries
R192 names; and the table is linear, which is R192's derived remark. -/
def Obligations.RomIsReflectedTable : Prop :=
  crcRom.length = 256 ∧
  (∀ i : Byte, crcRom[i.toNat]? =
    some (Nat.repeat (fun c : Half => if c.getLsbD 0 then (c >>> 1) ^^^ 0x8408 else c >>> 1) 8 (i.setWidth 16))) ∧
  (romRead 0x01 = 0x1189 ∧ romRead 0x02 = 0x2312 ∧ romRead 0x04 = 0x4624 ∧ romRead 0x08 = 0x8C48 ∧
    romRead 0x10 = 0x1081 ∧ romRead 0x20 = 0x2102 ∧ romRead 0x40 = 0x4204 ∧ romRead 0x80 = 0x8408) ∧
  (∀ i j : Byte, romRead (i ^^^ j) = romRead i ^^^ romRead j) ∧ romRead 0 = 0

/-- 43_crc.md R193: the fold by the table, the fold of a string in its order, and that the table fold is the bit-serial
reflected CRC, for every register value and byte. -/
def Obligations.FoldIsBitSerial : Prop :=
  ∀ (r : Half) (b : Byte) (bs : List Byte),
    (fold r b).toNat = r.toNat / 256 ^^^ (crcRom.getD ((r.toNat ^^^ b.toNat) % 256) 0).toNat ∧
    foldAll r [] = r ∧ foldAll r (b :: bs) = foldAll (fold r b) bs ∧
    fold r b = Nat.repeat (fun c : Half => if c.getLsbD 0 then (c >>> 1) ^^^ 0x8408 else c >>> 1) 8
      (r ^^^ b.setWidth 16)

/-- 43_crc.md R194: CRC_CALCULATE. -/
def Obligations.CrcCalculateStartsFresh : Prop :=
  ∀ (len : Half) (din : List Byte) (s : State),
    (encode (.crcCalculate len din)).cmd = 0x0000000A ∧
    exec (.crcCalculate len din) s =
      .next { s with
        crcReg := foldAll 0xFFFF din
        responses := s.responses ++ [⟨.ok, foldAll 0xFFFF din ^^^ 0xFFFF, 0, []⟩] }

/-- 43_crc.md R195: CRC_ACCUMULATE. -/
def Obligations.CrcAccumulateContinues : Prop :=
  ∀ (len : Half) (din : List Byte) (s : State),
    (encode (.crcAccumulate len din)).cmd = 0x0000000B ∧
    exec (.crcAccumulate len din) s =
      .next { s with
        crcReg := foldAll s.crcReg din
        responses := s.responses ++ [⟨.ok, foldAll s.crcReg din ^^^ 0xFFFF, 0, []⟩] }

/-- 43_crc.md R197: a CRC_CALCULATE, any CRC_ACCUMULATEs and any other commands but a CRC_CALCULATE between them, and a
last CRC_ACCUMULATE end with the register and RESULT of one CRC_CALCULATE of the whole string. -/
def Obligations.SplitCrcIsWholeCrc : Prop :=
  ∀ (l l' lk : Half) (d dk : List Byte) (mid : List Instr) (s t : State),
    (∀ i ∈ mid, ∀ k e, i ≠ .crcCalculate k e) →
    execAll (.crcCalculate l d :: mid ++ [.crcAccumulate lk dk]) s = .next t →
    ∃ u, exec (.crcCalculate l' (d ++ mid.flatMap accumulatedBy ++ dk)) s = .next u ∧ t.crcReg = u.crcReg ∧
      ∃ result, t.responses.getLast? = some ⟨.ok, result, 0, []⟩ ∧ u.responses.getLast? = some ⟨.ok, result, 0, []⟩

/-- 70_reset_and_hazards.md R248: of two interleaved computations, the first one's last RESULT is the CRC of the second's
data and its own tail. -/
def Obligations.InterleavedCrcsMix : Prop :=
  ∀ (l1 l2 l3 l4 : Half) (a1 b1 a2 : List Byte) (s : State),
    ∃ t u, execAll [.crcCalculate l1 a1, .crcCalculate l2 b1, .crcAccumulate l3 a2] s = .next t ∧
      exec (.crcCalculate l4 (b1 ++ a2)) s = .next u ∧
      (∃ r, t.responses.getLast? = some r ∧ r.status = .ok ∧
        r.result = ~~~ foldAll (foldAll 0xFFFF b1) a2) ∧
      t.responses.getLast? = u.responses.getLast? ∧ t.crcReg = u.crcReg

/-- 43_crc.md R199: the complemented CRC appended low byte first leaves the register 0xF0B8. -/
def Obligations.CrcResidueIsConstant : Prop :=
  ∀ (d : List Byte) (c : Half), c = ~~~ foldAll 0xFFFF d →
    foldAll 0xFFFF (d ++ [(c &&& 0xFF).setWidth 8, (c >>> 8).setWidth 8]) = 0xF0B8

/-- A CRC_ACCUMULATE straight after reset folds from the open draw CRC_RESET_VALUE (43_crc.md R200; log entry 6). -/
def Obligations.CrcAfterResetFoldsFromTheDraw : Prop :=
  ∀ (len : Half) (din : List Byte), ∃ t, exec (.crcAccumulate len din) State.reset = .next t ∧
    t.crcReg = foldAll Config.crcResetValue din ∧
    t.responses = [⟨.ok, ~~~ foldAll Config.crcResetValue din, 0, []⟩]

/-! ## Responses and errors -/

/-- 30_encoding.md R90: which response fields a command may set. -/
def Obligations.ResponseFieldsSet : Prop :=
  ∀ (i : Instr) (s t : State), exec i s = .next t →
    ∃ r, t.responses = s.responses ++ [r] ∧
      (r.status ≠ .ok → r.result = 0 ∧ r.hdr = 0 ∧ r.dout = []) ∧
      (r.result ≠ 0 → (∃ l d, i = .crcCalculate l d) ∨ (∃ l d, i = .crcAccumulate l d) ∨
        ∃ bus addr, i = .recvSingle bus addr) ∧
      (r.hdr ≠ 0 → ∃ bus addr, i = .recvSingle bus addr) ∧
      (r.dout ≠ [] → (∃ l, i = .recvContinue l) ∨ (∃ l, i = .recvStop l) ∨ ∃ bus addr, i = .recvSingle bus addr)

/-- The statuses each command can answer with, and the numbers of the ten statuses (60_exceptions.md R210, R213;
42_receive.md R174). -/
def Obligations.StatusesOfEachCommand : Prop :=
  (Status.ok.code = 0x00 ∧ Status.busOpenError.code = 0x01 ∧ Status.busAddressError.code = 0x02 ∧
    Status.busWriteError.code = 0x03 ∧ Status.busReadError.code = 0x04 ∧ Status.busAckError.code = 0x05 ∧
    Status.bufferOverflow.code = 0x06 ∧ Status.bufferUnderflow.code = 0x07 ∧ Status.sequenceError.code = 0x08 ∧
    Status.illegalCommand.code = 0x09) ∧
  ∀ (i : Instr) (s t : State) (r : Response), exec i s = .next t → t.responses = s.responses ++ [r] →
    r.status ∈ statusesOf i

/-- The writes that stay after an error (60_exceptions.md R217). -/
def Obligations.FailuresKeepOnlyListedWrites : Prop :=
  ∀ (i : Instr) (e : Status) (s t : State), exec i s = .next t → t.responses = s.responses ++ [⟨e, 0, 0, []⟩] →
    e ≠ .ok →
    ((busFields i = none ∨ e = .sequenceError) → t = answered e s) ∧
    (e = .bufferOverflow → ∀ p bus addr len din, i = .sendStop p bus addr len din →
      t = answered e { s with txState := .idle }) ∧
    ((∀ p bus addr len din, i ≠ .sendStop p bus addr len din) → SameTx s t) ∧
    (e ≠ .busAckError → SameRx s t) ∧
    t.crcReg = s.crcReg

/-- 41_transmit.md R130: the transition table of the transmit machine. -/
def Obligations.TransmitTransitions : Prop :=
  ∀ (i : Instr) (s t : State) (r : Response), exec i s = .next t → t.responses = s.responses ++ [r] →
    t.txState = txAfter i s.txState r.status ∧
    (s.txState = .idle → (∃ z len din, i = .sendContinue z len din) ∨ (∃ p bus addr len din,
      i = .sendStop p bus addr len din) → r.status = .sequenceError) ∧
    (s.txState = .assembling → ∀ z len din, i = .sendContinue z len din → r.status ≠ .sequenceError) ∧
    (s.txState = .assembling → ∀ p bus addr len din, i = .sendStop p bus addr len din → r.status ≠ .sequenceError)

/-- 42_receive.md R160: the transition table of the receive machine. -/
def Obligations.ReceiveTransitions : Prop :=
  ∀ (i : Instr) (s t : State) (r : Response), exec i s = .next t → t.responses = s.responses ++ [r] →
    t.rxState = rxAfter i s.rxState r.status ∧
    (s.rxState = .idle → (∃ len, i = .recvContinue len) ∨ (∃ len, i = .recvStop len) →
      r.status = .sequenceError) ∧
    (s.rxState = .filled → (∃ len, i = .recvContinue len) ∨ (∃ len, i = .recvStop len) →
      r.status = .ok ∨ r.status = .bufferUnderflow)

/-! ## Frames -/

/-- What SEND_START, RECV_CONTINUE, RECV_STOP, CRC_CALCULATE and CRC_ACCUMULATE leave unchanged: no byte of either buffer,
no bus register, no event (20_memory.md R72; 40_bus_handle.md R116; 10_state.md R34, R39). -/
def Obligations.FrameOfRegisterCommands : Prop :=
  (∀ bus addr len s t, exec (.sendStart bus addr len) s = .next t →
    SameRx s t ∧ SameHandle s t ∧ NoBus s t ∧ SameInputs s t ∧ t.crcReg = s.crcReg ∧
      ∀ a, t.txb.readByte a = s.txb.readByte a) ∧
  (∀ len s t, exec (.recvContinue len) s = .next t ∨ exec (.recvStop len) s = .next t →
    SameTx s t ∧ SameHandle s t ∧ NoBus s t ∧ SameInputs s t ∧ t.crcReg = s.crcReg ∧ t.rxLen = s.rxLen ∧
      ∀ a, t.rxb.readByte a = s.rxb.readByte a) ∧
  (∀ len din s t, exec (.crcCalculate len din) s = .next t ∨ exec (.crcAccumulate len din) s = .next t →
    SameTx s t ∧ SameRx s t ∧ SameHandle s t ∧ NoBus s t ∧ SameInputs s t)

/-- What SEND_CONTINUE and SEND_STOP leave unchanged: they store to the cells `[TX_OFF, TX_OFF + LEN)` of `TXB` and to no
other byte; SEND_CONTINUE leaves the bus registers too (10_state.md R26, R34). -/
def Obligations.FrameOfAppendingCommands : Prop :=
  (∀ z len din s t, (Instr.sendContinue z len din).wellFormed = true → exec (.sendContinue z len din) s = .next t →
    SameRx s t ∧ SameHandle s t ∧ NoBus s t ∧ SameInputs s t ∧ t.crcReg = s.crcReg ∧ t.txLen = s.txLen ∧
      t.txState = s.txState ∧
      ∀ a, a < s.txOff.toNat ∨ s.txOff.toNat + len.toNat ≤ a → t.txb.readByte a = s.txb.readByte a) ∧
  (∀ p bus addr len din s t, (Instr.sendStop p bus addr len din).wellFormed = true →
    exec (.sendStop p bus addr len din) s = .next t →
    SameRx s t ∧ SameInputs s t ∧ t.crcReg = s.crcReg ∧ t.txLen = s.txLen ∧
      ∀ a, a < s.txOff.toNat ∨ s.txOff.toNat + len.toNat ≤ a → t.txb.readByte a = s.txb.readByte a)

/-- What SEND_SINGLE, WAKE, RECV_SINGLE and RECV_START leave unchanged: the first three change only the bus handle;
RECV_START stores to the cells `[0, LEN)` of `RXB` and to no other byte (10_state.md R30, R34; 60_exceptions.md R217). -/
def Obligations.FrameOfBusCommands : Prop :=
  (∀ bus addr len din s t, exec (.sendSingle bus addr len din) s = .next t ∨ exec (.wake bus addr) s = .next t ∨
    exec (.recvSingle bus addr) s = .next t →
    SameTx s t ∧ SameRx s t ∧ SameInputs s t ∧ t.crcReg = s.crcReg) ∧
  (∀ bus addr len s t, exec (.recvStart bus addr len) s = .next t →
    SameTx s t ∧ SameInputs s t ∧ t.crcReg = s.crcReg ∧
      ∀ a, len.toNat ≤ a → t.rxb.readByte a = s.rxb.readByte a)

/-! ## Whole-machine rules -/

/-- Reset (70_reset_and_hazards.md R240). `CRC_REG` is the open draw; the zeros of the unspecified registers are the
model's choice (log entry 7) and are not stated. -/
def Obligations.ResetState : Prop :=
  State.reset.crcReg = Config.crcResetValue ∧ State.reset.txState = .idle ∧ State.reset.rxState = .idle ∧
  State.reset.busOpen = false ∧ State.reset.curAddrValid = false ∧ State.reset.trace = [] ∧
  State.reset.responses = [] ∧ GoodState State.reset

/-- 10_state.md R35: both invariants hold after every command. -/
def Obligations.OffsetsStayInBounds : Prop :=
  OffsetsInBounds State.reset ∧ ∀ s t, OffsetsInBounds s → step s = .next t → OffsetsInBounds t

/-- Every step keeps the block's invariant (10_state.md R35, R40; 20_memory.md R50; 40_bus_handle.md R115). -/
def Obligations.GoodStatesStayGood : Prop :=
  ∀ s t, GoodState s → step s = .next t → GoodState t

/-- 60_exceptions.md R220: the only way a command fails to complete is that a bus call never answers (a hang is a fault of
the model, log entry 3). No rule reads an unwritten cell (10_state.md R40). -/
def Obligations.OnlyUnansweredCallsStop : Prop :=
  ∀ s, GoodState s → (∃ t, step s = .next t) ∨
    ∃ u c, step s = .fault (.stuck u c) ∧
      match c with
      | .openBus bus => openReply bus u = .never
      | .setAddr addr => setAddrReply addr u = .never
      | .write bs => writeReply bs u = .never
      | .read len => readReply len u = .never

/-- A bus call that is never answered hangs its command, in the state the call was made in (20_memory.md R66): the open
and the set-address of every bus command, and each of its transfers. That a hang is a fault with that state and the call
is the model's choice, log entry 3. -/
def Obligations.UnansweredCallHangs : Prop :=
  (∀ (i : Instr) (bus addr : Byte) (s u : State) (c : BusCall), busFields i = some (bus, addr) →
    ¬ failsOwnChecks i s → (∀ p b a len din, i ≠ .sendStop p b a len din) → HandleUnanswered bus addr s u c →
    exec i s = .fault (.stuck u c)) ∧
  (∀ (p : Bool) (bus addr : Byte) (len : Half) (din old : List Byte) (s : State),
    (Instr.sendStop p bus addr len din).wellFormed = true → s.txState = .assembling →
    s.txOff.toNat + len.toNat ≤ s.txLen.toNat → s.txLen.toNat ≤ s.params.txCapacity →
    old.length = s.txOff.toNat → Holds s.txb 0 old →
    ∃ m off, off.toNat = s.txOff.toNat + len.toNat ∧
      Stored s.txb m s.txOff.toNat (if p then din else []) ∧
      (∀ u c, HandleUnanswered bus addr s u c → exec (.sendStop p bus addr len din) s =
        .fault (.stuck { u with txState := .idle, txb := m, txOff := off } c)) ∧
      (∀ s1, connect bus addr s = .ok () s1 → writeReply (old ++ (if p then din else [])) s1 = .never →
        exec (.sendStop p bus addr len din) s =
          .fault (.stuck { s1 with txState := .idle, txb := m, txOff := off }
            (.write (old ++ (if p then din else [])))))) ∧
  (∀ (bus addr : Byte) (len : Half) (din : List Byte) (s s1 : State), connect bus addr s = .ok () s1 →
    (writeReply din s1 = .never → exec (.sendSingle bus addr len din) s = .fault (.stuck s1 (.write din))) ∧
    (writeReply [0x00] s1 = .never → exec (.wake bus addr) s = .fault (.stuck s1 (.write [0x00]))) ∧
    (len.toNat ≤ s.params.rxCapacity → readReply len.toNat s1 = .never →
      exec (.recvStart bus addr len) s = .fault (.stuck s1 (.read len.toNat))) ∧
    (readReply 1 s1 = .never → exec (.recvSingle bus addr) s = .fault (.stuck s1 (.read 1))) ∧
    ∀ h s2, ReadsFull 1 s1 [h] s2 →
      (readReply 2 s2 = .never → exec (.recvSingle bus addr) s = .fault (.stuck s2 (.read 2))) ∧
      ∀ hi lo s3, ReadsFull 2 s2 [hi, lo] s3 → hi.toNat * 256 + lo.toNat ≤ s.params.rsMaxPayload →
        readReply (hi.toNat * 256 + lo.toNat) s3 = .never →
        exec (.recvSingle bus addr) s = .fault (.stuck s3 (.read (hi.toNat * 256 + lo.toNat))))

/-- 20_memory.md R72: the bus transactions of a command that succeeds. -/
def Obligations.TransactionsOfSuccess : Prop :=
  ∀ (i : Instr) (s t : State) (r : Response), exec i s = .next t → t.responses = s.responses ++ [r] → r.status = .ok →
    match busFields i with
    | none => t.trace = s.trace
    | some (bus, addr) =>
      ∃ evs, transfersFit i t.txOff.toNat evs ∧ t.trace = s.trace ++ handleEvents bus addr s ++ evs

/-- Once open, the bus stays open (10_state.md R31; 70_reset_and_hazards.md R241); parameters never change (R244); what
the trace and the responses hold is never taken back (20_memory.md R61). -/
def Obligations.NothingIsTakenBack : Prop :=
  ∀ s t, step s = .next t →
    (s.busOpen = true → t.busOpen = true) ∧ t.params = s.params ∧ s.trace <+: t.trace ∧ s.responses <+: t.responses

/-- 70_reset_and_hazards.md R242: no response or event but a CRC_ACCUMULATE's depends on CRC_REG or on a value that reset
leaves unspecified. -/
def Obligations.UnspecifiedValuesAreInvisible : Prop :=
  ∀ (i : Instr) (s t : State), i.wellFormed = true → (∀ l d, i ≠ .crcAccumulate l d) → GoodState s → GoodState t →
    Indistinguishable s t → OutcomesMatch Indistinguishable (exec i s) (exec i t)

/-- 41_transmit.md R142: a frame assembled in any number of pieces goes out as exactly one bus write of exactly its
bytes, in order. -/
def Obligations.OneWritePerFrame : Prop :=
  ∀ (bus addr bus' addr' : Byte) (N len : Half) (p : Bool) (din : List Byte) (mid : List Instr) (s t : State)
    (rs : List Response),
    (∀ i ∈ mid, i.wellFormed = true ∧ betweenTransmit i = true) →
    (Instr.sendStop p bus' addr' len din).wellFormed = true →
    N.toNat = ((mid ++ [Instr.sendStop p bus' addr' len din]).flatMap chunkOf).length →
    execAll (.sendStart bus addr N :: mid ++ [Instr.sendStop p bus' addr' len din]) s = .next t →
    t.responses = s.responses ++ rs → (∀ r ∈ rs, r.status = .ok) →
    ∃ evs, t.trace = s.trace ++ evs ∧
      evs.filter isWrite =
        [.evWrite ((mid ++ [Instr.sendStop p bus' addr' len din]).flatMap chunkOf) (.count N.toNat)]

/-- 42_receive.md R173: a received frame is given back in order by any reads that sum to its length, with one bus read. -/
def Obligations.FrameReadBackInOrder : Prop :=
  ∀ (bus addr : Byte) (N len : Half) (D : List Byte) (mid : List Instr) (pre : List Event) (s u t : State),
    exec (.recvStart bus addr N) s = .next u →
    u.responses = s.responses ++ [⟨.ok, 0, 0, []⟩] → u.trace = s.trace ++ pre ++ [.evRead N.toNat (.count N.toNat) D] →
    (∀ i ∈ mid, betweenReceive i = true) →
    N.toNat = ((mid ++ [Instr.recvStop len]).map takenOf).sum →
    execAll (mid ++ [Instr.recvStop len]) u = .next t →
    (∃ rs, t.responses = u.responses ++ rs ∧ rs.length = mid.length + 1 ∧ (rs.map Response.dout).flatten = D ∧
      ∀ (k : Nat) (i : Instr) (r : Response), (mid ++ [Instr.recvStop len])[k]? = some i → rs[k]? = some r →
        (∃ l, i = .recvContinue l) ∨ (∃ l, i = .recvStop l) → r.status = .ok) ∧
    t.rxOff = 0 ∧ t.rxState = .idle ∧
    ∃ evs, t.trace = s.trace ++ evs ∧ evs.filter isRead = [.evRead N.toNat (.count N.toNat) D]

/-- SEND_FRAME (30_encoding.md R92): its expansion, issued by a host that stops at the first error, sends the data in one
bus write. -/
def Obligations.SendFrameSendsData : Prop :=
  ∀ (bus addr : Byte) (data : List Byte) (forms : List Asm) (cmds : List Command) (s s1 s2 : State),
    (Pseudo.sendFrame bus addr data).expand = some forms → assembleAll forms = some cmds →
    data.length ≤ s.params.txCapacity → connect bus addr s = .ok () s1 →
    WritesWith data (.count data.length) s1 s2 →
    ∃ t, runWhileOk cmds s = .next t ∧ t.trace = s2.trace ∧
      t.responses = s.responses ++ [⟨.ok, 0, 0, []⟩, ⟨.ok, 0, 0, []⟩] ∧ t.txState = .idle

/-! ## Beside the statements above -/

/-- 41_transmit.md R137, status 1: SEND_STOP outside `ASSEMBLING`, beside `SendStopOverflowSendsNothing`. -/
def Obligations.SendStopOutsideAssembling : Prop :=
  ∀ (p : Bool) (bus addr : Byte) (len : Half) (din : List Byte) (s : State),
    ((encode (.sendStop p bus addr len din)).cmd &&& 0xFF0000DF = 0x00000003) ∧
    (s.txState ≠ .assembling → exec (.sendStop p bus addr len din) s = .next (answered .sequenceError s))

/-- A whole bus handle, from the environment's answers alone (40_bus_handle.md R110, R111, R115): it succeeds exactly when
the bus is or gets opened and the address is or gets set, in the state those two steps leave; a refused open, and a
refused set-address after an open, raise their errors. -/
def Obligations.BusHandleOutcomes : Prop :=
  ∀ (bus addr : Byte) (s : State),
    (∀ s1, connect bus addr s = .ok () s1 ↔
      Opens bus s ∧ (AddressCached addr s ∨ setAddrReply addr (afterOpen bus s) = .ok ()) ∧
        s1 = afterSetAddr addr (afterOpen bus s)) ∧
    (s.busOpen = false → openReply bus s = .err →
      connect bus addr s = .raised .busOpenError { s with
        answers := { s.answers with opens := s.answers.opens.tail }
        trace := s.trace ++ [.evOpen bus .err] }) ∧
    (Opens bus s → ¬ AddressCached addr s → setAddrReply addr (afterOpen bus s) = .err →
      connect bus addr s = .raised .busAddressError { afterOpen bus s with
        curAddrValid := false
        answers := { (afterOpen bus s).answers with setAddrs := (afterOpen bus s).answers.setAddrs.tail }
        trace := (afterOpen bus s).trace ++ [.evSetAddr addr .err] })
end

