-- ==== Sys2Proof/Laws/State.lean ====
section
/-! SUPPORT. What each named update of State does to each field: one lemma a field, true by unfolding. -/

namespace Sys2Proof.Machine

/-! `respond` -/

@[simp] theorem State.respond_crcReg (s : State) (r : Response) : (s.respond r).crcReg = s.crcReg := rfl
@[simp] theorem State.respond_txState (s : State) (r : Response) : (s.respond r).txState = s.txState := rfl
@[simp] theorem State.respond_txLen (s : State) (r : Response) : (s.respond r).txLen = s.txLen := rfl
@[simp] theorem State.respond_txOff (s : State) (r : Response) : (s.respond r).txOff = s.txOff := rfl
@[simp] theorem State.respond_txb (s : State) (r : Response) : (s.respond r).txb = s.txb := rfl
@[simp] theorem State.respond_rxState (s : State) (r : Response) : (s.respond r).rxState = s.rxState := rfl
@[simp] theorem State.respond_rxLen (s : State) (r : Response) : (s.respond r).rxLen = s.rxLen := rfl
@[simp] theorem State.respond_rxOff (s : State) (r : Response) : (s.respond r).rxOff = s.rxOff := rfl
@[simp] theorem State.respond_rxb (s : State) (r : Response) : (s.respond r).rxb = s.rxb := rfl
@[simp] theorem State.respond_busOpen (s : State) (r : Response) : (s.respond r).busOpen = s.busOpen := rfl
@[simp] theorem State.respond_curAddr (s : State) (r : Response) : (s.respond r).curAddr = s.curAddr := rfl
@[simp] theorem State.respond_curAddrValid (s : State) (r : Response) : (s.respond r).curAddrValid = s.curAddrValid := rfl
@[simp] theorem State.respond_params (s : State) (r : Response) : (s.respond r).params = s.params := rfl
@[simp] theorem State.respond_pending (s : State) (r : Response) : (s.respond r).pending = s.pending := rfl
@[simp] theorem State.respond_answers (s : State) (r : Response) : (s.respond r).answers = s.answers := rfl
@[simp] theorem State.respond_trace (s : State) (r : Response) : (s.respond r).trace = s.trace := rfl
@[simp] theorem State.respond_responses (s : State) (r : Response) : (s.respond r).responses = s.responses ++ [r] := rfl

/-! `record` -/

@[simp] theorem State.record_crcReg (s : State) (e : Event) : (s.record e).crcReg = s.crcReg := rfl
@[simp] theorem State.record_txState (s : State) (e : Event) : (s.record e).txState = s.txState := rfl
@[simp] theorem State.record_txLen (s : State) (e : Event) : (s.record e).txLen = s.txLen := rfl
@[simp] theorem State.record_txOff (s : State) (e : Event) : (s.record e).txOff = s.txOff := rfl
@[simp] theorem State.record_txb (s : State) (e : Event) : (s.record e).txb = s.txb := rfl
@[simp] theorem State.record_rxState (s : State) (e : Event) : (s.record e).rxState = s.rxState := rfl
@[simp] theorem State.record_rxLen (s : State) (e : Event) : (s.record e).rxLen = s.rxLen := rfl
@[simp] theorem State.record_rxOff (s : State) (e : Event) : (s.record e).rxOff = s.rxOff := rfl
@[simp] theorem State.record_rxb (s : State) (e : Event) : (s.record e).rxb = s.rxb := rfl
@[simp] theorem State.record_busOpen (s : State) (e : Event) : (s.record e).busOpen = s.busOpen := rfl
@[simp] theorem State.record_curAddr (s : State) (e : Event) : (s.record e).curAddr = s.curAddr := rfl
@[simp] theorem State.record_curAddrValid (s : State) (e : Event) : (s.record e).curAddrValid = s.curAddrValid := rfl
@[simp] theorem State.record_params (s : State) (e : Event) : (s.record e).params = s.params := rfl
@[simp] theorem State.record_pending (s : State) (e : Event) : (s.record e).pending = s.pending := rfl
@[simp] theorem State.record_answers (s : State) (e : Event) : (s.record e).answers = s.answers := rfl
@[simp] theorem State.record_trace (s : State) (e : Event) : (s.record e).trace = s.trace ++ [e] := rfl
@[simp] theorem State.record_responses (s : State) (e : Event) : (s.record e).responses = s.responses := rfl

/-! `tookOpen` -/

@[simp] theorem State.tookOpen_crcReg (s : State) : (s.tookOpen).crcReg = s.crcReg := rfl
@[simp] theorem State.tookOpen_txState (s : State) : (s.tookOpen).txState = s.txState := rfl
@[simp] theorem State.tookOpen_txLen (s : State) : (s.tookOpen).txLen = s.txLen := rfl
@[simp] theorem State.tookOpen_txOff (s : State) : (s.tookOpen).txOff = s.txOff := rfl
@[simp] theorem State.tookOpen_txb (s : State) : (s.tookOpen).txb = s.txb := rfl
@[simp] theorem State.tookOpen_rxState (s : State) : (s.tookOpen).rxState = s.rxState := rfl
@[simp] theorem State.tookOpen_rxLen (s : State) : (s.tookOpen).rxLen = s.rxLen := rfl
@[simp] theorem State.tookOpen_rxOff (s : State) : (s.tookOpen).rxOff = s.rxOff := rfl
@[simp] theorem State.tookOpen_rxb (s : State) : (s.tookOpen).rxb = s.rxb := rfl
@[simp] theorem State.tookOpen_busOpen (s : State) : (s.tookOpen).busOpen = s.busOpen := rfl
@[simp] theorem State.tookOpen_curAddr (s : State) : (s.tookOpen).curAddr = s.curAddr := rfl
@[simp] theorem State.tookOpen_curAddrValid (s : State) : (s.tookOpen).curAddrValid = s.curAddrValid := rfl
@[simp] theorem State.tookOpen_params (s : State) : (s.tookOpen).params = s.params := rfl
@[simp] theorem State.tookOpen_pending (s : State) : (s.tookOpen).pending = s.pending := rfl
@[simp] theorem State.tookOpen_answers (s : State) : (s.tookOpen).answers = { s.answers with opens := s.answers.opens.tail } := rfl
@[simp] theorem State.tookOpen_trace (s : State) : (s.tookOpen).trace = s.trace := rfl
@[simp] theorem State.tookOpen_responses (s : State) : (s.tookOpen).responses = s.responses := rfl

/-! `tookSetAddr` -/

@[simp] theorem State.tookSetAddr_crcReg (s : State) : (s.tookSetAddr).crcReg = s.crcReg := rfl
@[simp] theorem State.tookSetAddr_txState (s : State) : (s.tookSetAddr).txState = s.txState := rfl
@[simp] theorem State.tookSetAddr_txLen (s : State) : (s.tookSetAddr).txLen = s.txLen := rfl
@[simp] theorem State.tookSetAddr_txOff (s : State) : (s.tookSetAddr).txOff = s.txOff := rfl
@[simp] theorem State.tookSetAddr_txb (s : State) : (s.tookSetAddr).txb = s.txb := rfl
@[simp] theorem State.tookSetAddr_rxState (s : State) : (s.tookSetAddr).rxState = s.rxState := rfl
@[simp] theorem State.tookSetAddr_rxLen (s : State) : (s.tookSetAddr).rxLen = s.rxLen := rfl
@[simp] theorem State.tookSetAddr_rxOff (s : State) : (s.tookSetAddr).rxOff = s.rxOff := rfl
@[simp] theorem State.tookSetAddr_rxb (s : State) : (s.tookSetAddr).rxb = s.rxb := rfl
@[simp] theorem State.tookSetAddr_busOpen (s : State) : (s.tookSetAddr).busOpen = s.busOpen := rfl
@[simp] theorem State.tookSetAddr_curAddr (s : State) : (s.tookSetAddr).curAddr = s.curAddr := rfl
@[simp] theorem State.tookSetAddr_curAddrValid (s : State) : (s.tookSetAddr).curAddrValid = s.curAddrValid := rfl
@[simp] theorem State.tookSetAddr_params (s : State) : (s.tookSetAddr).params = s.params := rfl
@[simp] theorem State.tookSetAddr_pending (s : State) : (s.tookSetAddr).pending = s.pending := rfl
@[simp] theorem State.tookSetAddr_answers (s : State) : (s.tookSetAddr).answers = { s.answers with setAddrs := s.answers.setAddrs.tail } := rfl
@[simp] theorem State.tookSetAddr_trace (s : State) : (s.tookSetAddr).trace = s.trace := rfl
@[simp] theorem State.tookSetAddr_responses (s : State) : (s.tookSetAddr).responses = s.responses := rfl

/-! `tookWrite` -/

@[simp] theorem State.tookWrite_crcReg (s : State) : (s.tookWrite).crcReg = s.crcReg := rfl
@[simp] theorem State.tookWrite_txState (s : State) : (s.tookWrite).txState = s.txState := rfl
@[simp] theorem State.tookWrite_txLen (s : State) : (s.tookWrite).txLen = s.txLen := rfl
@[simp] theorem State.tookWrite_txOff (s : State) : (s.tookWrite).txOff = s.txOff := rfl
@[simp] theorem State.tookWrite_txb (s : State) : (s.tookWrite).txb = s.txb := rfl
@[simp] theorem State.tookWrite_rxState (s : State) : (s.tookWrite).rxState = s.rxState := rfl
@[simp] theorem State.tookWrite_rxLen (s : State) : (s.tookWrite).rxLen = s.rxLen := rfl
@[simp] theorem State.tookWrite_rxOff (s : State) : (s.tookWrite).rxOff = s.rxOff := rfl
@[simp] theorem State.tookWrite_rxb (s : State) : (s.tookWrite).rxb = s.rxb := rfl
@[simp] theorem State.tookWrite_busOpen (s : State) : (s.tookWrite).busOpen = s.busOpen := rfl
@[simp] theorem State.tookWrite_curAddr (s : State) : (s.tookWrite).curAddr = s.curAddr := rfl
@[simp] theorem State.tookWrite_curAddrValid (s : State) : (s.tookWrite).curAddrValid = s.curAddrValid := rfl
@[simp] theorem State.tookWrite_params (s : State) : (s.tookWrite).params = s.params := rfl
@[simp] theorem State.tookWrite_pending (s : State) : (s.tookWrite).pending = s.pending := rfl
@[simp] theorem State.tookWrite_answers (s : State) : (s.tookWrite).answers = { s.answers with writes := s.answers.writes.tail } := rfl
@[simp] theorem State.tookWrite_trace (s : State) : (s.tookWrite).trace = s.trace := rfl
@[simp] theorem State.tookWrite_responses (s : State) : (s.tookWrite).responses = s.responses := rfl

/-! `tookRead` -/

@[simp] theorem State.tookRead_crcReg (s : State) : (s.tookRead).crcReg = s.crcReg := rfl
@[simp] theorem State.tookRead_txState (s : State) : (s.tookRead).txState = s.txState := rfl
@[simp] theorem State.tookRead_txLen (s : State) : (s.tookRead).txLen = s.txLen := rfl
@[simp] theorem State.tookRead_txOff (s : State) : (s.tookRead).txOff = s.txOff := rfl
@[simp] theorem State.tookRead_txb (s : State) : (s.tookRead).txb = s.txb := rfl
@[simp] theorem State.tookRead_rxState (s : State) : (s.tookRead).rxState = s.rxState := rfl
@[simp] theorem State.tookRead_rxLen (s : State) : (s.tookRead).rxLen = s.rxLen := rfl
@[simp] theorem State.tookRead_rxOff (s : State) : (s.tookRead).rxOff = s.rxOff := rfl
@[simp] theorem State.tookRead_rxb (s : State) : (s.tookRead).rxb = s.rxb := rfl
@[simp] theorem State.tookRead_busOpen (s : State) : (s.tookRead).busOpen = s.busOpen := rfl
@[simp] theorem State.tookRead_curAddr (s : State) : (s.tookRead).curAddr = s.curAddr := rfl
@[simp] theorem State.tookRead_curAddrValid (s : State) : (s.tookRead).curAddrValid = s.curAddrValid := rfl
@[simp] theorem State.tookRead_params (s : State) : (s.tookRead).params = s.params := rfl
@[simp] theorem State.tookRead_pending (s : State) : (s.tookRead).pending = s.pending := rfl
@[simp] theorem State.tookRead_answers (s : State) : (s.tookRead).answers = { s.answers with reads := s.answers.reads.tail } := rfl
@[simp] theorem State.tookRead_trace (s : State) : (s.tookRead).trace = s.trace := rfl
@[simp] theorem State.tookRead_responses (s : State) : (s.tookRead).responses = s.responses := rfl

/-! `issue` -/

@[simp] theorem State.issue_crcReg (s : State) (c : Command) : (s.issue c).crcReg = s.crcReg := rfl
@[simp] theorem State.issue_txState (s : State) (c : Command) : (s.issue c).txState = s.txState := rfl
@[simp] theorem State.issue_txLen (s : State) (c : Command) : (s.issue c).txLen = s.txLen := rfl
@[simp] theorem State.issue_txOff (s : State) (c : Command) : (s.issue c).txOff = s.txOff := rfl
@[simp] theorem State.issue_txb (s : State) (c : Command) : (s.issue c).txb = s.txb := rfl
@[simp] theorem State.issue_rxState (s : State) (c : Command) : (s.issue c).rxState = s.rxState := rfl
@[simp] theorem State.issue_rxLen (s : State) (c : Command) : (s.issue c).rxLen = s.rxLen := rfl
@[simp] theorem State.issue_rxOff (s : State) (c : Command) : (s.issue c).rxOff = s.rxOff := rfl
@[simp] theorem State.issue_rxb (s : State) (c : Command) : (s.issue c).rxb = s.rxb := rfl
@[simp] theorem State.issue_busOpen (s : State) (c : Command) : (s.issue c).busOpen = s.busOpen := rfl
@[simp] theorem State.issue_curAddr (s : State) (c : Command) : (s.issue c).curAddr = s.curAddr := rfl
@[simp] theorem State.issue_curAddrValid (s : State) (c : Command) : (s.issue c).curAddrValid = s.curAddrValid := rfl
@[simp] theorem State.issue_params (s : State) (c : Command) : (s.issue c).params = s.params := rfl
@[simp] theorem State.issue_pending (s : State) (c : Command) : (s.issue c).pending = c :: s.pending := rfl
@[simp] theorem State.issue_answers (s : State) (c : Command) : (s.issue c).answers = s.answers := rfl
@[simp] theorem State.issue_trace (s : State) (c : Command) : (s.issue c).trace = s.trace := rfl
@[simp] theorem State.issue_responses (s : State) (c : Command) : (s.issue c).responses = s.responses := rfl

/-! `withCells_tx` -/

@[simp] theorem State.withCells_tx_crcReg (s : State) (m : Memory) : (s.withCells .tx m).crcReg = s.crcReg := rfl
@[simp] theorem State.withCells_tx_txState (s : State) (m : Memory) : (s.withCells .tx m).txState = s.txState := rfl
@[simp] theorem State.withCells_tx_txLen (s : State) (m : Memory) : (s.withCells .tx m).txLen = s.txLen := rfl
@[simp] theorem State.withCells_tx_txOff (s : State) (m : Memory) : (s.withCells .tx m).txOff = s.txOff := rfl
@[simp] theorem State.withCells_tx_txb (s : State) (m : Memory) : (s.withCells .tx m).txb = m := rfl
@[simp] theorem State.withCells_tx_rxState (s : State) (m : Memory) : (s.withCells .tx m).rxState = s.rxState := rfl
@[simp] theorem State.withCells_tx_rxLen (s : State) (m : Memory) : (s.withCells .tx m).rxLen = s.rxLen := rfl
@[simp] theorem State.withCells_tx_rxOff (s : State) (m : Memory) : (s.withCells .tx m).rxOff = s.rxOff := rfl
@[simp] theorem State.withCells_tx_rxb (s : State) (m : Memory) : (s.withCells .tx m).rxb = s.rxb := rfl
@[simp] theorem State.withCells_tx_busOpen (s : State) (m : Memory) : (s.withCells .tx m).busOpen = s.busOpen := rfl
@[simp] theorem State.withCells_tx_curAddr (s : State) (m : Memory) : (s.withCells .tx m).curAddr = s.curAddr := rfl
@[simp] theorem State.withCells_tx_curAddrValid (s : State) (m : Memory) : (s.withCells .tx m).curAddrValid = s.curAddrValid := rfl
@[simp] theorem State.withCells_tx_params (s : State) (m : Memory) : (s.withCells .tx m).params = s.params := rfl
@[simp] theorem State.withCells_tx_pending (s : State) (m : Memory) : (s.withCells .tx m).pending = s.pending := rfl
@[simp] theorem State.withCells_tx_answers (s : State) (m : Memory) : (s.withCells .tx m).answers = s.answers := rfl
@[simp] theorem State.withCells_tx_trace (s : State) (m : Memory) : (s.withCells .tx m).trace = s.trace := rfl
@[simp] theorem State.withCells_tx_responses (s : State) (m : Memory) : (s.withCells .tx m).responses = s.responses := rfl

/-! `withCells_rx` -/

@[simp] theorem State.withCells_rx_crcReg (s : State) (m : Memory) : (s.withCells .rx m).crcReg = s.crcReg := rfl
@[simp] theorem State.withCells_rx_txState (s : State) (m : Memory) : (s.withCells .rx m).txState = s.txState := rfl
@[simp] theorem State.withCells_rx_txLen (s : State) (m : Memory) : (s.withCells .rx m).txLen = s.txLen := rfl
@[simp] theorem State.withCells_rx_txOff (s : State) (m : Memory) : (s.withCells .rx m).txOff = s.txOff := rfl
@[simp] theorem State.withCells_rx_txb (s : State) (m : Memory) : (s.withCells .rx m).txb = s.txb := rfl
@[simp] theorem State.withCells_rx_rxState (s : State) (m : Memory) : (s.withCells .rx m).rxState = s.rxState := rfl
@[simp] theorem State.withCells_rx_rxLen (s : State) (m : Memory) : (s.withCells .rx m).rxLen = s.rxLen := rfl
@[simp] theorem State.withCells_rx_rxOff (s : State) (m : Memory) : (s.withCells .rx m).rxOff = s.rxOff := rfl
@[simp] theorem State.withCells_rx_rxb (s : State) (m : Memory) : (s.withCells .rx m).rxb = m := rfl
@[simp] theorem State.withCells_rx_busOpen (s : State) (m : Memory) : (s.withCells .rx m).busOpen = s.busOpen := rfl
@[simp] theorem State.withCells_rx_curAddr (s : State) (m : Memory) : (s.withCells .rx m).curAddr = s.curAddr := rfl
@[simp] theorem State.withCells_rx_curAddrValid (s : State) (m : Memory) : (s.withCells .rx m).curAddrValid = s.curAddrValid := rfl
@[simp] theorem State.withCells_rx_params (s : State) (m : Memory) : (s.withCells .rx m).params = s.params := rfl
@[simp] theorem State.withCells_rx_pending (s : State) (m : Memory) : (s.withCells .rx m).pending = s.pending := rfl
@[simp] theorem State.withCells_rx_answers (s : State) (m : Memory) : (s.withCells .rx m).answers = s.answers := rfl
@[simp] theorem State.withCells_rx_trace (s : State) (m : Memory) : (s.withCells .rx m).trace = s.trace := rfl
@[simp] theorem State.withCells_rx_responses (s : State) (m : Memory) : (s.withCells .rx m).responses = s.responses := rfl

/-! `startAssembling` -/

@[simp] theorem startAssembling_crcReg (s : State) (len : Half) : (startAssembling len s).crcReg = s.crcReg := rfl
@[simp] theorem startAssembling_txState (s : State) (len : Half) : (startAssembling len s).txState = .assembling := rfl
@[simp] theorem startAssembling_txLen (s : State) (len : Half) : (startAssembling len s).txLen = len := rfl
@[simp] theorem startAssembling_txOff (s : State) (len : Half) : (startAssembling len s).txOff = 0 := rfl
@[simp] theorem startAssembling_txb (s : State) (len : Half) : (startAssembling len s).txb = s.txb := rfl
@[simp] theorem startAssembling_rxState (s : State) (len : Half) : (startAssembling len s).rxState = s.rxState := rfl
@[simp] theorem startAssembling_rxLen (s : State) (len : Half) : (startAssembling len s).rxLen = s.rxLen := rfl
@[simp] theorem startAssembling_rxOff (s : State) (len : Half) : (startAssembling len s).rxOff = s.rxOff := rfl
@[simp] theorem startAssembling_rxb (s : State) (len : Half) : (startAssembling len s).rxb = s.rxb := rfl
@[simp] theorem startAssembling_busOpen (s : State) (len : Half) : (startAssembling len s).busOpen = s.busOpen := rfl
@[simp] theorem startAssembling_curAddr (s : State) (len : Half) : (startAssembling len s).curAddr = s.curAddr := rfl
@[simp] theorem startAssembling_curAddrValid (s : State) (len : Half) : (startAssembling len s).curAddrValid = s.curAddrValid := rfl
@[simp] theorem startAssembling_params (s : State) (len : Half) : (startAssembling len s).params = s.params := rfl
@[simp] theorem startAssembling_pending (s : State) (len : Half) : (startAssembling len s).pending = s.pending := rfl
@[simp] theorem startAssembling_answers (s : State) (len : Half) : (startAssembling len s).answers = s.answers := rfl
@[simp] theorem startAssembling_trace (s : State) (len : Half) : (startAssembling len s).trace = s.trace := rfl
@[simp] theorem startAssembling_responses (s : State) (len : Half) : (startAssembling len s).responses = s.responses := rfl

/-! `endAssembling` -/

@[simp] theorem endAssembling_crcReg (s : State) : (endAssembling s).crcReg = s.crcReg := rfl
@[simp] theorem endAssembling_txState (s : State) : (endAssembling s).txState = .idle := rfl
@[simp] theorem endAssembling_txLen (s : State) : (endAssembling s).txLen = s.txLen := rfl
@[simp] theorem endAssembling_txOff (s : State) : (endAssembling s).txOff = s.txOff := rfl
@[simp] theorem endAssembling_txb (s : State) : (endAssembling s).txb = s.txb := rfl
@[simp] theorem endAssembling_rxState (s : State) : (endAssembling s).rxState = s.rxState := rfl
@[simp] theorem endAssembling_rxLen (s : State) : (endAssembling s).rxLen = s.rxLen := rfl
@[simp] theorem endAssembling_rxOff (s : State) : (endAssembling s).rxOff = s.rxOff := rfl
@[simp] theorem endAssembling_rxb (s : State) : (endAssembling s).rxb = s.rxb := rfl
@[simp] theorem endAssembling_busOpen (s : State) : (endAssembling s).busOpen = s.busOpen := rfl
@[simp] theorem endAssembling_curAddr (s : State) : (endAssembling s).curAddr = s.curAddr := rfl
@[simp] theorem endAssembling_curAddrValid (s : State) : (endAssembling s).curAddrValid = s.curAddrValid := rfl
@[simp] theorem endAssembling_params (s : State) : (endAssembling s).params = s.params := rfl
@[simp] theorem endAssembling_pending (s : State) : (endAssembling s).pending = s.pending := rfl
@[simp] theorem endAssembling_answers (s : State) : (endAssembling s).answers = s.answers := rfl
@[simp] theorem endAssembling_trace (s : State) : (endAssembling s).trace = s.trace := rfl
@[simp] theorem endAssembling_responses (s : State) : (endAssembling s).responses = s.responses := rfl

/-! `startFilled` -/

@[simp] theorem startFilled_crcReg (s : State) (len : Half) : (startFilled len s).crcReg = s.crcReg := rfl
@[simp] theorem startFilled_txState (s : State) (len : Half) : (startFilled len s).txState = s.txState := rfl
@[simp] theorem startFilled_txLen (s : State) (len : Half) : (startFilled len s).txLen = s.txLen := rfl
@[simp] theorem startFilled_txOff (s : State) (len : Half) : (startFilled len s).txOff = s.txOff := rfl
@[simp] theorem startFilled_txb (s : State) (len : Half) : (startFilled len s).txb = s.txb := rfl
@[simp] theorem startFilled_rxState (s : State) (len : Half) : (startFilled len s).rxState = .filled := rfl
@[simp] theorem startFilled_rxLen (s : State) (len : Half) : (startFilled len s).rxLen = len := rfl
@[simp] theorem startFilled_rxOff (s : State) (len : Half) : (startFilled len s).rxOff = 0 := rfl
@[simp] theorem startFilled_rxb (s : State) (len : Half) : (startFilled len s).rxb = s.rxb := rfl
@[simp] theorem startFilled_busOpen (s : State) (len : Half) : (startFilled len s).busOpen = s.busOpen := rfl
@[simp] theorem startFilled_curAddr (s : State) (len : Half) : (startFilled len s).curAddr = s.curAddr := rfl
@[simp] theorem startFilled_curAddrValid (s : State) (len : Half) : (startFilled len s).curAddrValid = s.curAddrValid := rfl
@[simp] theorem startFilled_params (s : State) (len : Half) : (startFilled len s).params = s.params := rfl
@[simp] theorem startFilled_pending (s : State) (len : Half) : (startFilled len s).pending = s.pending := rfl
@[simp] theorem startFilled_answers (s : State) (len : Half) : (startFilled len s).answers = s.answers := rfl
@[simp] theorem startFilled_trace (s : State) (len : Half) : (startFilled len s).trace = s.trace := rfl
@[simp] theorem startFilled_responses (s : State) (len : Half) : (startFilled len s).responses = s.responses := rfl

/-! `endFilled` -/

@[simp] theorem endFilled_crcReg (s : State) : (endFilled s).crcReg = s.crcReg := rfl
@[simp] theorem endFilled_txState (s : State) : (endFilled s).txState = s.txState := rfl
@[simp] theorem endFilled_txLen (s : State) : (endFilled s).txLen = s.txLen := rfl
@[simp] theorem endFilled_txOff (s : State) : (endFilled s).txOff = s.txOff := rfl
@[simp] theorem endFilled_txb (s : State) : (endFilled s).txb = s.txb := rfl
@[simp] theorem endFilled_rxState (s : State) : (endFilled s).rxState = .idle := rfl
@[simp] theorem endFilled_rxLen (s : State) : (endFilled s).rxLen = s.rxLen := rfl
@[simp] theorem endFilled_rxOff (s : State) : (endFilled s).rxOff = 0 := rfl
@[simp] theorem endFilled_rxb (s : State) : (endFilled s).rxb = s.rxb := rfl
@[simp] theorem endFilled_busOpen (s : State) : (endFilled s).busOpen = s.busOpen := rfl
@[simp] theorem endFilled_curAddr (s : State) : (endFilled s).curAddr = s.curAddr := rfl
@[simp] theorem endFilled_curAddrValid (s : State) : (endFilled s).curAddrValid = s.curAddrValid := rfl
@[simp] theorem endFilled_params (s : State) : (endFilled s).params = s.params := rfl
@[simp] theorem endFilled_pending (s : State) : (endFilled s).pending = s.pending := rfl
@[simp] theorem endFilled_answers (s : State) : (endFilled s).answers = s.answers := rfl
@[simp] theorem endFilled_trace (s : State) : (endFilled s).trace = s.trace := rfl
@[simp] theorem endFilled_responses (s : State) : (endFilled s).responses = s.responses := rfl

/-! `cells` and `capacity` -/

@[simp] theorem State.cells_tx (s : State) : s.cells .tx = s.txb := rfl
@[simp] theorem State.cells_rx (s : State) : s.cells .rx = s.rxb := rfl
@[simp] theorem State.capacity_tx (s : State) : s.capacity .tx = s.params.txCapacity := rfl
@[simp] theorem State.capacity_rx (s : State) : s.capacity .rx = s.params.rxCapacity := rfl

@[simp] theorem rejectCommand_eq (s : State) : rejectCommand s = s.respond (errorResponse .illegalCommand) := rfl

@[simp] theorem errorResponse_status (e : Status) : (errorResponse e).status = e := rfl
@[simp] theorem plainOk_status : plainOk.status = .ok := rfl
@[simp] theorem okResponse_status (r : Half) (h : Byte) (d : List Byte) : (okResponse r h d).status = .ok := rfl
@[simp] theorem okResponse_dout (r : Half) (h : Byte) (d : List Byte) : (okResponse r h d).dout = d := rfl
@[simp] theorem okResponse_result (r : Half) (h : Byte) (d : List Byte) : (okResponse r h d).result = r := rfl

end Sys2Proof.Machine
end

