-- ==== Sys2Proof/Laws/Memory.lean ====
section
/-! SUPPORT. The laws of the buffer memories: read after write, canonical form kept, nothing listed outside the space. -/

namespace Sys2Proof.Machine

/-! ## One cell -/

@[simp] theorem Memory.readByte_nil (x : Nat) : Memory.readByte [] x = none := rfl

/-- A read after a write: the byte written in that cell, what was there in every other. -/
theorem Memory.readByte_writeByte (m : Memory) (x : Nat) (v : Byte) (y : Nat) :
    (m.writeByte x v).readByte y = if y = x then some v else m.readByte y := by
  induction m with
  | nil =>
    show (if x = y then some v else none) = _
    by_cases h : y = x
    · rw [if_pos h, if_pos h.symm]
    · rw [if_neg h, if_neg (Ne.symm h)]; rfl
  | cons c m ih =>
    obtain ⟨a, b⟩ := c
    by_cases hy : y = x
    · subst hy
      rw [if_pos rfl] at ih ⊢
      rw [Memory.writeByte]
      split_ifs with h1 h2
      · exact if_pos rfl
      · exact if_pos rfl
      · exact (if_neg h2).trans ih
    · rw [if_neg hy] at ih ⊢
      rw [Memory.writeByte]
      split_ifs with h1 h2
      · exact if_neg (Ne.symm hy)
      · subst h2
        exact (if_neg (Ne.symm hy)).trans (if_neg (Ne.symm hy)).symm
      · rw [Memory.readByte, ih, Memory.readByte]

/-- The cells of a memory after a write are the one written and old ones. -/
theorem Memory.mem_writeByte {m : Memory} {x : Nat} {v : Byte} {c : Host.Cell} (h : c ∈ m.writeByte x v) :
    c = (x, v) ∨ c ∈ m := by
  induction m with
  | nil => simpa [Memory.writeByte] using h
  | cons d m ih =>
    obtain ⟨a, b⟩ := d
    simp only [Memory.writeByte] at h
    split_ifs at h <;> simp only [List.mem_cons] at h ⊢ <;> aesop

/-- A write keeps the canonical form. -/
theorem Memory.writeByte_wf {m : Memory} (x : Nat) (v : Byte) (h : m.wf) : (m.writeByte x v).wf := by
  induction m with
  | nil => simp [Memory.writeByte]
  | cons c m ih =>
    obtain ⟨a, b⟩ := c
    have hp := List.pairwise_cons.mp h
    simp only [Memory.writeByte]
    split_ifs with h1 h2
    · refine List.pairwise_cons.mpr ⟨fun d hd => ?_, h⟩
      rcases List.mem_cons.mp hd with rfl | hd
      · exact h1
      · exact lt_trans h1 (hp.1 d hd)
    · subst h2
      exact List.pairwise_cons.mpr ⟨hp.1, hp.2⟩
    · refine List.pairwise_cons.mpr ⟨fun d hd => ?_, ih hp.2⟩
      rcases Memory.mem_writeByte hd with rfl | hd
      · exact lt_of_le_of_ne (not_lt.mp h1) h2
      · exact hp.1 d hd

/-! ## Strings of cells -/

/-- A read after a write of a string: byte `i` of it at `o + i`, what was there outside. -/
theorem Memory.readByte_writeBytes (m : Memory) (o : Nat) (bs : List Byte) (y : Nat) :
    (m.writeBytes o bs).readByte y = if o ≤ y ∧ y < o + bs.length then bs[y - o]? else m.readByte y := by
  induction bs generalizing m o with
  | nil =>
    rw [if_neg (by rw [List.length_nil]; omega)]; rfl
  | cons b bs ih =>
    rw [Memory.writeBytes, ih, Memory.readByte_writeByte]
    simp only [List.length_cons]
    by_cases h1 : o + 1 ≤ y ∧ y < o + 1 + bs.length
    · rw [if_pos h1, if_pos (by omega)]
      obtain ⟨k, rfl⟩ : ∃ k, y = o + 1 + k := ⟨y - (o + 1), by omega⟩
      have e1 : o + 1 + k - (o + 1) = k := by omega
      have e2 : o + 1 + k - o = k + 1 := by omega
      rw [e1, e2, List.getElem?_cons_succ]
    · rw [if_neg h1]
      by_cases h2 : y = o
      · subst h2; rw [if_pos rfl, if_pos (by omega)]; simp
      · rw [if_neg h2, if_neg (by omega)]

/-- Outside the string's cells a write changes nothing. -/
theorem Memory.readByte_writeBytes_outside {m : Memory} {o : Nat} {bs : List Byte} {y : Nat}
    (h : y < o ∨ o + bs.length ≤ y) : (m.writeBytes o bs).readByte y = m.readByte y := by
  rw [Memory.readByte_writeBytes, if_neg (by omega)]

/-- Inside it the string's bytes stand. -/
theorem Memory.readByte_writeBytes_inside {m : Memory} {o : Nat} {bs : List Byte} {k : Nat} (h : k < bs.length) :
    (m.writeBytes o bs).readByte (o + k) = some bs[k] := by
  rw [Memory.readByte_writeBytes, if_pos (by omega)]
  simp [h]

/-- A write of a string keeps the canonical form. -/
theorem Memory.writeBytes_wf {m : Memory} (o : Nat) (bs : List Byte) (h : m.wf) : (m.writeBytes o bs).wf := by
  induction bs generalizing m o with
  | nil => exact h
  | cons b bs ih => exact ih (o + 1) (Memory.writeByte_wf o b h)

/-- A write of a string inside the space lists no cell outside it. -/
theorem Memory.writeBytes_within {m : Memory} {o cap : Nat} {bs : List Byte} (h : ∀ c ∈ m, c.1 < cap)
    (hb : bs = [] ∨ o + bs.length ≤ cap) : ∀ c ∈ m.writeBytes o bs, c.1 < cap := by
  induction bs generalizing m o with
  | nil => exact h
  | cons b bs ih =>
    have hb : o + (bs.length + 1) ≤ cap := by simpa using hb
    refine ih (fun c hc => ?_) (Or.inr (by omega))
    rcases Memory.mem_writeByte hc with rfl | hc
    · show o < cap
      omega
    · exact h c hc

/-- What a read of a string answers, cell by cell. -/
theorem Memory.readBytes_eq_some_iff {m : Memory} {o n : Nat} {bs : List Byte} :
    m.readBytes o n = some bs ↔ bs.length = n ∧ ∀ k, k < n → m.readByte (o + k) = bs[k]? := by
  induction n generalizing o bs with
  | zero =>
    simp only [Memory.readBytes, Option.some.injEq]
    constructor
    · rintro rfl; simp
    · rintro ⟨h, -⟩; exact (List.length_eq_zero_iff.mp h).symm
  | succ n ih =>
    rw [Memory.readBytes]
    constructor
    · intro h
      rcases hb : m.readByte o with _ | b <;> rw [hb] at h
      · cases h
      rcases hs : m.readBytes (o + 1) n with _ | cs <;> rw [hs] at h
      · cases h
      cases h
      obtain ⟨hl, hk⟩ := ih.mp hs
      refine ⟨by simp [hl], fun k hlt => ?_⟩
      cases k with
      | zero => simp [hb]
      | succ k =>
        have := hk k (by omega)
        rw [List.getElem?_cons_succ, ← this]
        congr 1; omega
    · rintro ⟨hl, hk⟩
      cases bs with
      | nil => cases hl
      | cons b cs =>
        have h0 := hk 0 (by omega)
        have h1 : m.readBytes (o + 1) n = some cs := ih.mpr ⟨by simpa using hl, fun k hlt => by
          have := hk (k + 1) (by omega)
          rw [List.getElem?_cons_succ] at this
          rw [← this]; congr 1; omega⟩
        have h0' : m.readByte o = some b := by simpa using h0
        rw [h0', h1]

/-- A read of a string of written cells answers a string. -/
theorem Memory.readBytes_isSome {m : Memory} {o n : Nat} (h : ∀ k, k < n → (m.readByte (o + k)).isSome = true) :
    ∃ bs, m.readBytes o n = some bs := by
  induction n generalizing o with
  | zero => exact ⟨[], rfl⟩
  | succ n ih =>
    obtain ⟨b, hb⟩ := Option.isSome_iff_exists.mp (h 0 (by omega))
    obtain ⟨bs, hbs⟩ := ih (o := o + 1) fun k hk => by
      have := h (k + 1) (by omega)
      rwa [show o + 1 + k = o + (k + 1) by omega]
    have hb' : m.readByte o = some b := by simpa using hb
    exact ⟨b :: bs, by rw [Memory.readBytes, hb', hbs]⟩

/-- Two memories that read alike on the cells of a string read the same string. -/
theorem Memory.readBytes_congr {m m' : Memory} {o n : Nat} (h : ∀ k, k < n → m.readByte (o + k) = m'.readByte (o + k)) :
    m.readBytes o n = m'.readBytes o n := by
  induction n generalizing o with
  | zero => rfl
  | succ n ih =>
    have h0 : m.readByte o = m'.readByte o := by simpa using h 0 (by omega)
    have h1 := ih (o := o + 1) fun k hk => by
      have := h (k + 1) (by omega)
      rwa [show o + 1 + k = o + (k + 1) by omega]
    rw [Memory.readBytes, Memory.readBytes, h0, h1]

end Sys2Proof.Machine
end

