-- ==== Sys2Proof/Laws/Ops.lean ====
section
/-! SUPPORT. What each shared operation can do, said once: how sub-steps chain and end, the memory operations, the bus
calls and the bus handle. -/

namespace Sys2Proof.Machine

/-! ## Chaining and ending -/

@[simp] theorem Ran.andThen_ok {α β : Type} (a : α) (s : State) (k : α → State → Ran β) :
    (Ran.ok a s).andThen k = k a s := rfl

@[simp] theorem Ran.andThen_raised {α β : Type} (e : Status) (s : State) (k : α → State → Ran β) :
    (Ran.raised e s : Ran α).andThen k = .raised e s := rfl

@[simp] theorem Ran.andThen_stopped {α β : Type} (f : Fault) (k : α → State → Ran β) :
    (Ran.stopped f : Ran α).andThen k = .stopped f := rfl

@[simp] theorem finish_ok (r : Response) (s : State) : finish (.ok r s) = .next (s.respond r) := rfl
@[simp] theorem finish_raised (e : Status) (s : State) : finish (.raised e s) = .next (s.respond (errorResponse e)) := rfl
@[simp] theorem finish_stopped (f : Fault) : finish (.stopped f) = .fault f := rfl

/-- The next states of a command: its response, or the error response of a `raise`. -/
theorem finish_eq_next {r : Ran Response} {t : State} :
    finish r = .next t ↔
      (∃ resp s, r = .ok resp s ∧ t = s.respond resp) ∨ (∃ e s, r = .raised e s ∧ t = s.respond (errorResponse e)) := by
  cases r <;> simp [eq_comm]

/-- A command stops exactly where its sub-steps do. -/
theorem finish_eq_fault {r : Ran Response} {f : Fault} : finish r = .fault f ↔ r = .stopped f := by
  cases r <;> simp

/-- No command is refused. -/
theorem finish_ne_refused (r : Ran Response) (x : Refusal) : finish r ≠ .refused x := by
  cases r <;> simp

/-- Both sub-steps succeed. -/
theorem Ran.andThen_eq_ok {α β : Type} {r : Ran α} {k : α → State → Ran β} {b : β} {t : State} :
    r.andThen k = .ok b t ↔ ∃ a s, r = .ok a s ∧ k a s = .ok b t := by
  cases r <;> simp

/-- Either sub-step raises. -/
theorem Ran.andThen_eq_raised {α β : Type} {r : Ran α} {k : α → State → Ran β} {e : Status} {t : State} :
    r.andThen k = .raised e t ↔ r = .raised e t ∨ ∃ a s, r = .ok a s ∧ k a s = .raised e t := by
  cases r <;> simp

/-- Either sub-step stops. -/
theorem Ran.andThen_eq_stopped {α β : Type} {r : Ran α} {k : α → State → Ran β} {f : Fault} :
    r.andThen k = .stopped f ↔ r = .stopped f ∨ ∃ a s, r = .ok a s ∧ k a s = .stopped f := by
  cases r <;> simp

/-- A property of the state a sub-step ends in, whether it goes on or raises. -/
def Ran.Ends {α : Type} (r : Ran α) (P : State → Prop) : Prop :=
  match r with
  | .ok _ s => P s
  | .raised _ s => P s
  | .stopped _ => True

/-- A property both sub-steps establish is established by the two together. -/
theorem Ran.Ends.andThen {α β : Type} {r : Ran α} {k : α → State → Ran β} {P Q : State → Prop} (hr : r.Ends P)
    (hk : ∀ a s, P s → (k a s).Ends Q) (hq : ∀ s, P s → Q s) : (r.andThen k).Ends Q := by
  cases r with
  | ok a s => exact hk a s hr
  | raised e s => exact hq s hr
  | stopped f => trivial

/-! ## Memory operations -/

/-- What `memRead` can do: answer the string of the cells and change nothing, or stop. -/
theorem memRead_cases (sp : Space) (o n : Nat) (s : State) :
    (∃ bs, memRead sp o n s = .ok bs s ∧ (s.cells sp).readBytes o n = some bs ∧ s.hasCells sp o n) ∨
    ((s.cells sp).readBytes o n = none ∧ memRead sp o n s = .stopped (.cellUnwritten sp o n)) ∨
    (¬ s.hasCells sp o n ∧ memRead sp o n s = .stopped (.cellOutsideSpace sp o n)) := by
  unfold memRead
  by_cases h : s.hasCells sp o n
  · rw [if_pos h]
    cases hb : (s.cells sp).readBytes o n with
    | none => exact .inr (.inl ⟨rfl, rfl⟩)
    | some bs => exact .inl ⟨bs, rfl, rfl, h⟩
  · exact .inr (.inr ⟨h, if_neg h⟩)

/-- `memRead` of existing, written cells answers their string. -/
theorem memRead_ok {sp : Space} {o n : Nat} {s : State} {bs : List Byte} (h : s.hasCells sp o n)
    (hb : (s.cells sp).readBytes o n = some bs) : memRead sp o n s = .ok bs s := by
  rw [memRead, if_pos h, hb]

/-- `memRead` that answers. -/
theorem memRead_eq_ok {sp : Space} {o n : Nat} {s t : State} {bs : List Byte} :
    memRead sp o n s = .ok bs t ↔ t = s ∧ (s.cells sp).readBytes o n = some bs ∧ s.hasCells sp o n := by
  rcases memRead_cases sp o n s with ⟨cs, h, hb, hc⟩ | ⟨hb, h⟩ | ⟨hc, h⟩ <;> rw [h]
  · rw [hb]; simp only [Ran.ok.injEq, Option.some.injEq, hc, and_true, eq_comm]; tauto
  · simp [hb]
  · simp [hc]

/-- `memRead` never raises. -/
theorem memRead_ne_raised (sp : Space) (o n : Nat) (s : State) (e : Status) (t : State) :
    memRead sp o n s ≠ .raised e t := by
  rcases memRead_cases sp o n s with ⟨cs, h, -, -⟩ | ⟨-, h⟩ | ⟨-, h⟩ <;> rw [h] <;> simp

/-- `memWrite` into existing cells. -/
theorem memWrite_ok {sp : Space} {o : Nat} {bs : List Byte} {s : State} (h : s.hasCells sp o bs.length) :
    memWrite sp o bs s = .ok () (s.withCells sp ((s.cells sp).writeBytes o bs)) := if_pos h

/-- `memWrite` that answers. -/
theorem memWrite_eq_ok {sp : Space} {o : Nat} {bs : List Byte} {s t : State} {u : Unit} :
    memWrite sp o bs s = .ok u t ↔ t = s.withCells sp ((s.cells sp).writeBytes o bs) ∧ s.hasCells sp o bs.length := by
  unfold memWrite
  by_cases h : s.hasCells sp o bs.length
  · rw [if_pos h]
    constructor
    · intro e; cases e; exact ⟨rfl, h⟩
    · rintro ⟨rfl, -⟩; rfl
  · rw [if_neg h]
    constructor
    · intro e; cases e
    · rintro ⟨-, h'⟩; exact absurd h' h

/-- `memWrite` never raises. -/
theorem memWrite_ne_raised (sp : Space) (o : Nat) (bs : List Byte) (s : State) (e : Status) (t : State) :
    memWrite sp o bs s ≠ .raised e t := by
  unfold memWrite
  split <;> simp

/-! ## The bus primitive -/

/-- The answer to a read is never longer than the request (20_memory.md R60). -/
theorem readReply_length {len : Nat} {s : State} {d : List Byte} (h : readReply len s = .ok d) : d.length ≤ len := by
  unfold readReply clipReply at h
  split at h <;> cases h
  simp

/-- What `writeRaw` can do. -/
theorem writeRaw_cases (bs : List Byte) (s : State) :
    (writeReply bs s = .never ∧ writeRaw bs s = .stopped (.stuck s (.write bs))) ∨
    (writeReply bs s = .err ∧ writeRaw bs s = .ok .err (s.tookWrite.record (.evWrite bs .err))) ∨
    (∃ n, writeReply bs s = .ok n ∧
      writeRaw bs s = .ok (.count n) (s.tookWrite.record (.evWrite bs (.count n)))) := by
  unfold writeRaw
  cases writeReply bs s <;> simp

/-- What `readRaw` can do. -/
theorem readRaw_cases (len : Nat) (s : State) :
    (readReply len s = .never ∧ readRaw len s = .stopped (.stuck s (.read len))) ∨
    (readReply len s = .err ∧ readRaw len s = .ok (.err, []) (s.tookRead.record (.evRead len .err []))) ∨
    (∃ d, readReply len s = .ok d ∧
      readRaw len s = .ok (.count d.length, d) (s.tookRead.record (.evRead len (.count d.length) d))) := by
  unfold readRaw
  cases readReply len s <;> simp

/-! ## The bus handle -/

/-- What `ensureOpen` can do. -/
theorem ensureOpen_cases (bus : Byte) (s : State) :
    (s.busOpen = true ∧ ensureOpen bus s = .ok () s) ∨
    (s.busOpen = false ∧ openReply bus s = .never ∧ ensureOpen bus s = .stopped (.stuck s (.openBus bus))) ∨
    (s.busOpen = false ∧ openReply bus s = .err ∧
      ensureOpen bus s = .raised .busOpenError (s.tookOpen.record (.evOpen bus .err))) ∨
    (s.busOpen = false ∧ openReply bus s = .ok () ∧
      ensureOpen bus s = .ok () { s.tookOpen.record (.evOpen bus .ok) with busOpen := true }) := by
  unfold ensureOpen callOpen
  cases h : s.busOpen
  · cases openReply bus s <;> simp
  · simp

/-- What `ensureAddressed` can do. -/
theorem ensureAddressed_cases (addr : Byte) (s : State) :
    ((s.curAddrValid = true ∧ s.curAddr = addr) ∧ ensureAddressed addr s = .ok () s) ∨
    (¬ (s.curAddrValid = true ∧ s.curAddr = addr) ∧ setAddrReply addr s = .never ∧
      ensureAddressed addr s = .stopped (.stuck s (.setAddr addr))) ∨
    (¬ (s.curAddrValid = true ∧ s.curAddr = addr) ∧ setAddrReply addr s = .err ∧
      ensureAddressed addr s =
        .raised .busAddressError { s.tookSetAddr.record (.evSetAddr addr .err) with curAddrValid := false }) ∨
    (¬ (s.curAddrValid = true ∧ s.curAddr = addr) ∧ setAddrReply addr s = .ok () ∧
      ensureAddressed addr s =
        .ok () { s.tookSetAddr.record (.evSetAddr addr .ok) with curAddr := addr, curAddrValid := true }) := by
  unfold ensureAddressed callSetAddr
  by_cases h : s.curAddrValid = true ∧ s.curAddr = addr
  · simp [h]
  · rw [if_neg h]
    cases setAddrReply addr s <;> simp [h]

/-- Everything but the bus handle, the environment's answers and the trace is unchanged. -/
def OnlyBus (s t : State) : Prop :=
  t = { s with
    busOpen := t.busOpen, curAddr := t.curAddr, curAddrValid := t.curAddrValid, answers := t.answers
    trace := t.trace }

theorem OnlyBus.refl (s : State) : OnlyBus s s := rfl

theorem OnlyBus.trans {s t u : State} (h : OnlyBus s t) (h' : OnlyBus t u) : OnlyBus s u := by
  unfold OnlyBus at *
  rw [h] at h'
  exact h'

theorem OnlyBus.crcReg {s t : State} (h : OnlyBus s t) : t.crcReg = s.crcReg := by rw [h]
theorem OnlyBus.txState {s t : State} (h : OnlyBus s t) : t.txState = s.txState := by rw [h]
theorem OnlyBus.txLen {s t : State} (h : OnlyBus s t) : t.txLen = s.txLen := by rw [h]
theorem OnlyBus.txOff {s t : State} (h : OnlyBus s t) : t.txOff = s.txOff := by rw [h]
theorem OnlyBus.txb {s t : State} (h : OnlyBus s t) : t.txb = s.txb := by rw [h]
theorem OnlyBus.rxState {s t : State} (h : OnlyBus s t) : t.rxState = s.rxState := by rw [h]
theorem OnlyBus.rxLen {s t : State} (h : OnlyBus s t) : t.rxLen = s.rxLen := by rw [h]
theorem OnlyBus.rxOff {s t : State} (h : OnlyBus s t) : t.rxOff = s.rxOff := by rw [h]
theorem OnlyBus.rxb {s t : State} (h : OnlyBus s t) : t.rxb = s.rxb := by rw [h]
theorem OnlyBus.params {s t : State} (h : OnlyBus s t) : t.params = s.params := by rw [h]
theorem OnlyBus.pending {s t : State} (h : OnlyBus s t) : t.pending = s.pending := by rw [h]
theorem OnlyBus.responses {s t : State} (h : OnlyBus s t) : t.responses = s.responses := by rw [h]

/-- `EnsureOpen` changes nothing but the bus handle, the answers and the trace. -/
theorem ensureOpen_onlyBus (bus : Byte) (s : State) : (ensureOpen bus s).Ends (OnlyBus s) := by
  rcases ensureOpen_cases bus s with ⟨-, h⟩ | ⟨-, -, h⟩ | ⟨-, -, h⟩ | ⟨-, -, h⟩ <;> rw [h] <;>
    first | exact rfl | trivial

/-- `EnsureAddressed` changes nothing but the bus handle, the answers and the trace. -/
theorem ensureAddressed_onlyBus (addr : Byte) (s : State) : (ensureAddressed addr s).Ends (OnlyBus s) := by
  rcases ensureAddressed_cases addr s with ⟨-, h⟩ | ⟨-, -, h⟩ | ⟨-, -, h⟩ | ⟨-, -, h⟩ <;> rw [h] <;>
    first | exact rfl | trivial

/-- Opening and addressing change nothing but the bus handle, the answers and the trace. -/
theorem connect_onlyBus (bus addr : Byte) (s : State) : (connect bus addr s).Ends (OnlyBus s) := by
  refine (ensureOpen_onlyBus bus s).andThen (fun _ u hu => ?_) fun _ h => h
  have := ensureAddressed_onlyBus addr u
  unfold Ran.Ends at this ⊢
  split at this <;> first | exact hu.trans this | trivial

/-- A bus write changes nothing but the answers and the trace. -/
theorem writeRaw_onlyBus (bs : List Byte) (s : State) : (writeRaw bs s).Ends (OnlyBus s) := by
  rcases writeRaw_cases bs s with ⟨-, h⟩ | ⟨-, h⟩ | ⟨n, -, h⟩ <;> rw [h] <;> first | exact rfl | trivial

/-- A bus read changes nothing but the answers and the trace. -/
theorem readRaw_onlyBus (len : Nat) (s : State) : (readRaw len s).Ends (OnlyBus s) := by
  rcases readRaw_cases len s with ⟨-, h⟩ | ⟨-, h⟩ | ⟨d, -, h⟩ <;> rw [h] <;> first | exact rfl | trivial

/-! ## The host's next command -/

@[simp] theorem takeCommand_issue (s : State) (c : Command) : takeCommand (s.issue c) = some (c, s) := rfl

end Sys2Proof.Machine
end

