-- ==== Sys2Proof/Laws/Bus.lean ====
section
/-! SUPPORT. What opening and addressing do together, and that bus operations see nothing but the bus: they give the same
whatever the other fields hold. -/

namespace Sys2Proof.Machine

open Sys2Proof.Safety

/-! ## Opening and addressing -/

/-- Everything a successful bus handle says (40_bus_handle.md R110, R111, R115). -/
theorem connect_eq_ok {bus addr : Byte} {s t : State} {u : Unit} (h : connect bus addr s = .ok u t) :
    OnlyBus s t ∧ t.trace = s.trace ++ handleEvents bus addr s ∧ t.busOpen = true ∧ t.curAddrValid = true ∧
      t.curAddr = addr := by
  have hb : OnlyBus s t := by simpa only [h, Ran.Ends] using connect_onlyBus bus addr s
  obtain ⟨v, s', h1, h2⟩ := Ran.andThen_eq_ok.mp h
  refine ⟨hb, ?_⟩
  unfold handleEvents
  rcases ensureOpen_cases bus s with ⟨hs, e⟩ | ⟨-, -, e⟩ | ⟨-, -, e⟩ | ⟨hs, -, e⟩ <;> rw [e] at h1 <;> cases h1 <;>
    rcases ensureAddressed_cases addr _ with ⟨hc, e'⟩ | ⟨-, -, e'⟩ | ⟨-, -, e'⟩ | ⟨hc, -, e'⟩ <;> rw [e'] at h2 <;>
    cases h2 <;> simp_all

/-- Everything a bus handle that raises says. -/
theorem connect_eq_raised {bus addr : Byte} {e : Status} {s t : State} (h : connect bus addr s = .raised e t) :
    OnlyBus s t ∧ (∃ evs ∈ handleFailures bus addr s, t.trace = s.trace ++ evs) ∧
      (e = .busOpenError ∨ e = .busAddressError) ∧ (s.busOpen = true → t.busOpen = true) ∧
      (t.curAddrValid = true → s.curAddrValid = true) ∧ (e = .busOpenError → t.busOpen = s.busOpen) := by
  have hb : OnlyBus s t := by simpa only [h, Ran.Ends] using connect_onlyBus bus addr s
  refine ⟨hb, ?_⟩
  unfold handleFailures
  rcases Ran.andThen_eq_raised.mp h with h1 | ⟨v, s', h1, h2⟩
  · rcases ensureOpen_cases bus s with ⟨hs, e'⟩ | ⟨-, -, e'⟩ | ⟨hs, -, e'⟩ | ⟨hs, -, e'⟩ <;> rw [e'] at h1 <;> cases h1
    simp_all
  · rcases ensureOpen_cases bus s with ⟨hs, e'⟩ | ⟨-, -, e'⟩ | ⟨-, -, e'⟩ | ⟨hs, -, e'⟩ <;> rw [e'] at h1 <;> cases h1 <;>
      rcases ensureAddressed_cases addr _ with ⟨hc, e''⟩ | ⟨-, -, e''⟩ | ⟨hc, -, e''⟩ | ⟨-, -, e''⟩ <;> rw [e''] at h2 <;>
      cases h2 <;> simp_all

/-- A bus handle stops only because a call is never answered. -/
theorem connect_eq_stopped {bus addr : Byte} {f : Fault} {s : State} (h : connect bus addr s = .stopped f) :
    ∃ t, OnlyBus s t ∧
      ((f = .stuck t (.openBus bus) ∧ openReply bus t = .never) ∨
        (f = .stuck t (.setAddr addr) ∧ setAddrReply addr t = .never)) := by
  rcases Ran.andThen_eq_stopped.mp h with h1 | ⟨v, s', h1, h2⟩
  · rcases ensureOpen_cases bus s with ⟨-, e'⟩ | ⟨-, hn, e'⟩ | ⟨-, -, e'⟩ | ⟨-, -, e'⟩ <;> rw [e'] at h1 <;> cases h1
    exact ⟨s, .refl s, .inl ⟨rfl, hn⟩⟩
  · have hb : OnlyBus s s' := by simpa only [h1, Ran.Ends] using ensureOpen_onlyBus bus s
    rcases ensureAddressed_cases addr s' with ⟨-, e'⟩ | ⟨-, hn, e'⟩ | ⟨-, -, e'⟩ | ⟨-, -, e'⟩ <;> rw [e'] at h2 <;> cases h2
    exact ⟨s', hb, .inr ⟨rfl, hn⟩⟩

/-! ## Bus operations see nothing but the bus -/

/-- `u` with the bus handle, the answers and the trace of `s`. -/
def graft (u s : State) : State :=
  { u with
    busOpen := s.busOpen, curAddr := s.curAddr, curAddrValid := s.curAddrValid, answers := s.answers
    trace := s.trace }

/-- Any change outside the bus is a graft. -/
theorem graft_self (u : State) : graft u u = u := rfl

/-- The state a stop carries, changed by `f`. -/
def Fault.mapState (f : State → State) : Fault → Fault
  | .stuck s c => .stuck (f s) c
  | .cellUnwritten sp o n => .cellUnwritten sp o n
  | .cellOutsideSpace sp o n => .cellOutsideSpace sp o n

/-- The state a sub-step ends or stops in, changed by `f`. -/
def Ran.mapState {α : Type} (f : State → State) : Ran α → Ran α
  | .ok a s => .ok a (f s)
  | .raised e s => .raised e (f s)
  | .stopped x => .stopped (x.mapState f)

/-- Sub-steps that commute with `f` commute together. -/
theorem Ran.mapState_andThen {α β : Type} {f : State → State} {r : Ran α} {k k' : α → State → Ran β}
    (h : ∀ a s, k' a (f s) = (k a s).mapState f) : (r.mapState f).andThen k' = (r.andThen k).mapState f := by
  cases r with
  | ok a s => exact h a s
  | raised e s => rfl
  | stopped x => rfl

theorem ensureOpen_graft (u : State) (bus : Byte) (s : State) :
    ensureOpen bus (graft u s) = (ensureOpen bus s).mapState (graft u) := by
  have hr : openReply bus (graft u s) = openReply bus s := rfl
  have ho : (graft u s).busOpen = s.busOpen := rfl
  unfold ensureOpen callOpen
  rw [ho, hr]
  cases s.busOpen
  · cases openReply bus s <;> rfl
  · rfl

theorem ensureAddressed_graft (u : State) (addr : Byte) (s : State) :
    ensureAddressed addr (graft u s) = (ensureAddressed addr s).mapState (graft u) := by
  have hr : setAddrReply addr (graft u s) = setAddrReply addr s := rfl
  have ho : (graft u s).curAddrValid = s.curAddrValid ∧ (graft u s).curAddr = s.curAddr := ⟨rfl, rfl⟩
  unfold ensureAddressed callSetAddr
  rw [ho.1, ho.2, hr]
  split
  · rfl
  · cases setAddrReply addr s <;> rfl

/-- Opening and addressing give the same, whatever the fields outside the bus hold. -/
theorem connect_graft (u : State) (bus addr : Byte) (s : State) :
    connect bus addr (graft u s) = (connect bus addr s).mapState (graft u) := by
  unfold connect
  rw [ensureOpen_graft]
  exact Ran.mapState_andThen fun _ t => ensureAddressed_graft u addr t

/-- A bus write gives the same, whatever the fields outside the bus hold. -/
theorem writeRaw_graft (u : State) (bs : List Byte) (s : State) :
    writeRaw bs (graft u s) = (writeRaw bs s).mapState (graft u) := by
  have hr : writeReply bs (graft u s) = writeReply bs s := rfl
  unfold writeRaw
  rw [hr]
  cases writeReply bs s <;> rfl

/-- A bus read gives the same, whatever the fields outside the bus hold. -/
theorem readRaw_graft (u : State) (len : Nat) (s : State) :
    readRaw len (graft u s) = (readRaw len s).mapState (graft u) := by
  have hr : readReply len (graft u s) = readReply len s := rfl
  unfold readRaw
  rw [hr]
  cases readReply len s <;> rfl

end Sys2Proof.Machine
end

