-- ==== Sys2Proof/Laws/Canonical.lean ====
section
/-! SUPPORT. Every operation on the buffers keeps their canonical form, and reset has it. -/

namespace Sys2Proof.Machine

open Sys2Proof.Safety

/-- Nothing is listed at reset. -/
theorem reset_buffersCanonical : BuffersCanonical State.reset :=
  ⟨⟨.nil, nofun⟩, ⟨.nil, nofun⟩⟩

/-- A write into a buffer keeps both buffers canonical. -/
theorem memWrite_buffersCanonical {sp : Space} {o : Nat} {bs : List Byte} {s t : State} {u : Unit}
    (h : memWrite sp o bs s = .ok u t) (hs : BuffersCanonical s) : BuffersCanonical t := by
  obtain ⟨rfl, hc⟩ := memWrite_eq_ok.mp h
  have hb : bs = [] ∨ o + bs.length ≤ s.capacity sp := hc.imp List.length_eq_zero_iff.mp id
  cases sp with
  | tx => exact ⟨⟨Memory.writeBytes_wf o bs hs.1.1, Memory.writeBytes_within hs.1.2 hb⟩, hs.2⟩
  | rx => exact ⟨hs.1, ⟨Memory.writeBytes_wf o bs hs.2.1, Memory.writeBytes_within hs.2.2 hb⟩⟩

/-- A read of a buffer changes neither buffer. -/
theorem memRead_buffersCanonical {sp : Space} {o n : Nat} {bs : List Byte} {s t : State}
    (h : memRead sp o n s = .ok bs t) (hs : BuffersCanonical s) : BuffersCanonical t := by
  obtain ⟨rfl, -⟩ := memRead_eq_ok.mp h
  exact hs

end Sys2Proof.Machine
end

