-- ==== Sys2Proof/Laws/Encoding.lean ====
section
/-! SUPPORT. The fields of the words the encoder builds, each read back (30_encoding.md R81, R82). -/

namespace Sys2Proof

@[simp] theorem opcField_cmdWord (o : BitVec 4) (z p : Bool) (b a : Byte) : opcField (cmdWord o z p b a) = o := by
  apply BitVec.eq_of_getLsbD_eq
  intro i hi
  simp only [opcField, cmdWord, BitVec.getLsbD_extractLsb', BitVec.getLsbD_append]
  interval_cases i <;> simp

@[simp] theorem zField_cmdWord (o : BitVec 4) (z p : Bool) (b a : Byte) : zField (cmdWord o z p b a) = z := by
  simp only [zField, cmdWord, BitVec.getLsbD_append]
  simp

@[simp] theorem pField_cmdWord (o : BitVec 4) (z p : Bool) (b a : Byte) : pField (cmdWord o z p b a) = p := by
  simp only [pField, cmdWord, BitVec.getLsbD_append]
  simp

@[simp] theorem busField_cmdWord (o : BitVec 4) (z p : Bool) (b a : Byte) : busField (cmdWord o z p b a) = b := by
  apply BitVec.eq_of_getLsbD_eq
  intro i hi
  simp only [busField, cmdWord, BitVec.getLsbD_extractLsb', BitVec.getLsbD_append]
  interval_cases i <;> simp

@[simp] theorem addrField_cmdWord (o : BitVec 4) (z p : Bool) (b a : Byte) : addrField (cmdWord o z p b a) = a := by
  apply BitVec.eq_of_getLsbD_eq
  intro i hi
  simp only [addrField, cmdWord, BitVec.getLsbD_extractLsb', BitVec.getLsbD_append]
  interval_cases i <;> simp

@[simp] theorem lenField_argWord (l : Half) : lenField (argWord l) = l := by
  apply BitVec.eq_of_getLsbD_eq
  intro i hi
  simp only [lenField, argWord, BitVec.getLsbD_extractLsb', BitVec.getLsbD_append]
  interval_cases i <;> simp

@[simp] theorem rsvField_argWord (l : Half) : rsvField (argWord l) = 0 := by
  apply BitVec.eq_of_getLsbD_eq
  intro i hi
  simp only [rsvField, argWord, BitVec.getLsbD_extractLsb', BitVec.getLsbD_append]
  interval_cases i <;> simp

/-- The fixed bits of an encoded word, bit by bit. -/
theorem cmdWord_and_mask {o : BitVec 4} {z p : Bool} {b a : Byte} {m v : Word}
    (h : ∀ j, j < 32 → ((cmdWord o z p b a).getLsbD j && m.getLsbD j) = v.getLsbD j) :
    cmdWord o z p b a &&& m = v := by
  apply BitVec.eq_of_getLsbD_eq
  intro j hj
  rw [BitVec.getLsbD_and]
  exact h j hj

/-- Everything a successful decoding says: the checks of R86 that passed, and the operands. -/
theorem decode_eq_ok_iff (c : Command) (i : Instr) :
    decode c = .ok i ↔
      ∃ op, opcodeOf (opcField c.cmd) = some op ∧ c.cmd &&& cmdMask op = cmdPattern op ∧ rsvField c.arg = 0 ∧
        (op = .wake ∨ op = .recvSingle → lenField c.arg = 0) ∧
        (op = .sendStop → pField c.cmd = false → lenField c.arg = 0) ∧
        c.din.length = dinExpected op c.cmd c.arg ∧ i = assembleOperands op c := by
  unfold decode
  cases hop : opcodeOf (opcField c.cmd) with
  | none => simp
  | some op =>
    simp only
    split_ifs with h1 h2 h3 h4 h5 <;> simp_all <;> aesop

end Sys2Proof
end

