-- ==== Sys2Proof/Laws/Exec.lean ====
section
/-! SUPPORT. What the transfers, the frame operations and each bus command can do, said once: every next state they have. -/

namespace Sys2Proof.Machine

open Sys2Proof.Safety

/-! ## The fields of an answered state -/

@[simp] theorem answered_crcReg (e : Status) (s : State) : (answered e s).crcReg = s.crcReg := rfl
@[simp] theorem answered_txState (e : Status) (s : State) : (answered e s).txState = s.txState := rfl
@[simp] theorem answered_txLen (e : Status) (s : State) : (answered e s).txLen = s.txLen := rfl
@[simp] theorem answered_txOff (e : Status) (s : State) : (answered e s).txOff = s.txOff := rfl
@[simp] theorem answered_txb (e : Status) (s : State) : (answered e s).txb = s.txb := rfl
@[simp] theorem answered_rxState (e : Status) (s : State) : (answered e s).rxState = s.rxState := rfl
@[simp] theorem answered_rxLen (e : Status) (s : State) : (answered e s).rxLen = s.rxLen := rfl
@[simp] theorem answered_rxOff (e : Status) (s : State) : (answered e s).rxOff = s.rxOff := rfl
@[simp] theorem answered_rxb (e : Status) (s : State) : (answered e s).rxb = s.rxb := rfl
@[simp] theorem answered_busOpen (e : Status) (s : State) : (answered e s).busOpen = s.busOpen := rfl
@[simp] theorem answered_curAddr (e : Status) (s : State) : (answered e s).curAddr = s.curAddr := rfl
@[simp] theorem answered_curAddrValid (e : Status) (s : State) : (answered e s).curAddrValid = s.curAddrValid := rfl
@[simp] theorem answered_params (e : Status) (s : State) : (answered e s).params = s.params := rfl
@[simp] theorem answered_pending (e : Status) (s : State) : (answered e s).pending = s.pending := rfl
@[simp] theorem answered_answers (e : Status) (s : State) : (answered e s).answers = s.answers := rfl
@[simp] theorem answered_trace (e : Status) (s : State) : (answered e s).trace = s.trace := rfl
@[simp] theorem answered_responses (e : Status) (s : State) : (answered e s).responses = s.responses ++ [⟨e, 0, 0, []⟩] := rfl

/-! ## Transfers -/

/-- What `writeFully` can do. -/
theorem writeFully_cases (bs : List Byte) (want : Nat) (s : State) :
    (writeReply bs s = .never ∧ writeFully bs want s = .stopped (.stuck s (.write bs))) ∨
    (∃ c, c ≠ .count want ∧
      writeFully bs want s = .raised .busWriteError (s.tookWrite.record (.evWrite bs c))) ∨
    (writeReply bs s = .ok want ∧
      writeFully bs want s = .ok () (s.tookWrite.record (.evWrite bs (.count want)))) := by
  unfold writeFully
  rcases writeRaw_cases bs s with ⟨hr, h⟩ | ⟨-, h⟩ | ⟨n, hr, h⟩ <;> rw [h]
  · exact .inl ⟨hr, rfl⟩
  · exact .inr (.inl ⟨.err, by simp, rfl⟩)
  · by_cases hn : n = want
    · subst hn
      exact .inr (.inr ⟨hr, if_pos rfl⟩)
    · have hc : Count.count n ≠ .count want := by simpa using hn
      exact .inr (.inl ⟨_, hc, if_neg hc⟩)

/-- What `readFully` can do. -/
theorem readFully_cases (len : Nat) (s : State) :
    (readReply len s = .never ∧ readFully len s = .stopped (.stuck s (.read len))) ∨
    (∃ c d, c ≠ .count len ∧ readFully len s = .raised .busReadError (s.tookRead.record (.evRead len c d))) ∨
    (∃ d, d.length = len ∧ readReply len s = .ok d ∧
      readFully len s = .ok d (s.tookRead.record (.evRead len (.count len) d))) := by
  unfold readFully
  rcases readRaw_cases len s with ⟨hr, h⟩ | ⟨-, h⟩ | ⟨d, hr, h⟩ <;> rw [h]
  · exact .inl ⟨hr, rfl⟩
  · exact .inr (.inl ⟨.err, [], by simp, rfl⟩)
  · by_cases hn : d.length = len
    · refine .inr (.inr ⟨d, hn, hr, ?_⟩)
      simp [requireCount, hn]
    · have hc : Count.count d.length ≠ .count len := by simpa using hn
      refine .inr (.inl ⟨_, d, hc, ?_⟩)
      simp [requireCount, hn]

/-! ## Frames -/

/-- `s` after `bs` has been appended to its frame. -/
def State.appended (s : State) (len : Half) (bs : List Byte) : State :=
  { s with txb := s.txb.writeBytes s.txOff.toNat bs, txOff := s.txOff + len }

@[simp] theorem State.appended_crcReg (s : State) (len : Half) (bs : List Byte) : (s.appended len bs).crcReg = s.crcReg := rfl
@[simp] theorem State.appended_txState (s : State) (len : Half) (bs : List Byte) : (s.appended len bs).txState = s.txState := rfl
@[simp] theorem State.appended_txLen (s : State) (len : Half) (bs : List Byte) : (s.appended len bs).txLen = s.txLen := rfl
@[simp] theorem State.appended_txOff (s : State) (len : Half) (bs : List Byte) : (s.appended len bs).txOff = s.txOff + len := rfl
@[simp] theorem State.appended_txb (s : State) (len : Half) (bs : List Byte) : (s.appended len bs).txb = s.txb.writeBytes s.txOff.toNat bs := rfl
@[simp] theorem State.appended_rxState (s : State) (len : Half) (bs : List Byte) : (s.appended len bs).rxState = s.rxState := rfl
@[simp] theorem State.appended_rxLen (s : State) (len : Half) (bs : List Byte) : (s.appended len bs).rxLen = s.rxLen := rfl
@[simp] theorem State.appended_rxOff (s : State) (len : Half) (bs : List Byte) : (s.appended len bs).rxOff = s.rxOff := rfl
@[simp] theorem State.appended_rxb (s : State) (len : Half) (bs : List Byte) : (s.appended len bs).rxb = s.rxb := rfl
@[simp] theorem State.appended_busOpen (s : State) (len : Half) (bs : List Byte) : (s.appended len bs).busOpen = s.busOpen := rfl
@[simp] theorem State.appended_curAddr (s : State) (len : Half) (bs : List Byte) : (s.appended len bs).curAddr = s.curAddr := rfl
@[simp] theorem State.appended_curAddrValid (s : State) (len : Half) (bs : List Byte) : (s.appended len bs).curAddrValid = s.curAddrValid := rfl
@[simp] theorem State.appended_params (s : State) (len : Half) (bs : List Byte) : (s.appended len bs).params = s.params := rfl
@[simp] theorem State.appended_pending (s : State) (len : Half) (bs : List Byte) : (s.appended len bs).pending = s.pending := rfl
@[simp] theorem State.appended_answers (s : State) (len : Half) (bs : List Byte) : (s.appended len bs).answers = s.answers := rfl
@[simp] theorem State.appended_trace (s : State) (len : Half) (bs : List Byte) : (s.appended len bs).trace = s.trace := rfl
@[simp] theorem State.appended_responses (s : State) (len : Half) (bs : List Byte) : (s.appended len bs).responses = s.responses := rfl

/-- What `appendFrame` can do. -/
theorem appendFrame_cases (len : Half) (bs : List Byte) (s : State) :
    (s.txLen.toNat < s.txOff.toNat + len.toNat ∧ appendFrame len bs s = .raised .bufferOverflow s) ∨
    (s.txOff.toNat + len.toNat ≤ s.txLen.toNat ∧ s.hasCells .tx s.txOff.toNat bs.length ∧
      appendFrame len bs s = .ok () (s.appended len bs)) ∨
    (s.txOff.toNat + len.toNat ≤ s.txLen.toNat ∧ ¬ s.hasCells .tx s.txOff.toNat bs.length ∧
      appendFrame len bs s = .stopped (.cellOutsideSpace .tx s.txOff.toNat bs.length)) := by
  unfold appendFrame
  by_cases h : s.txLen.toNat < s.txOff.toNat + len.toNat
  · exact .inl ⟨h, if_pos h⟩
  · rw [if_neg h]
    by_cases hc : s.hasCells .tx s.txOff.toNat bs.length
    · rw [memWrite_ok hc]
      exact .inr (.inl ⟨by omega, hc, rfl⟩)
    · rw [memWrite, if_neg hc]
      exact .inr (.inr ⟨by omega, hc, rfl⟩)

/-- A sum of offset and length that fits the frame's length does not wrap. -/
theorem toNat_add_of_le {o len L : Half} (h : o.toNat + len.toNat ≤ L.toNat) :
    (o + len).toNat = o.toNat + len.toNat := by
  have := L.isLt
  rw [BitVec.toNat_add, Nat.mod_eq_of_lt (by omega)]

/-- What `frameBytes` can do. -/
theorem frameBytes_cases (len : Half) (s : State) :
    (s.rxLen.toNat < s.rxOff.toNat + len.toNat ∧ frameBytes len s = .raised .bufferUnderflow s) ∨
    (s.rxOff.toNat + len.toNat ≤ s.rxLen.toNat ∧
      ∃ d, s.rxb.readBytes s.rxOff.toNat len.toNat = some d ∧ frameBytes len s = .ok d s) ∨
    (s.rxOff.toNat + len.toNat ≤ s.rxLen.toNat ∧ s.rxb.readBytes s.rxOff.toNat len.toNat = none ∧
      frameBytes len s = .stopped (.cellUnwritten .rx s.rxOff.toNat len.toNat)) ∨
    (s.rxOff.toNat + len.toNat ≤ s.rxLen.toNat ∧ ¬ s.hasCells .rx s.rxOff.toNat len.toNat ∧
      frameBytes len s = .stopped (.cellOutsideSpace .rx s.rxOff.toNat len.toNat)) := by
  unfold frameBytes
  by_cases h : s.rxLen.toNat < s.rxOff.toNat + len.toNat
  · exact .inl ⟨h, if_pos h⟩
  · rw [if_neg h]
    rcases memRead_cases .rx s.rxOff.toNat len.toNat s with ⟨bs, e, hb, -⟩ | ⟨hb, e⟩ | ⟨hc, e⟩
    · exact .inr (.inl ⟨by omega, bs, hb, e⟩)
    · exact .inr (.inr (.inl ⟨by omega, hb, e⟩))
    · exact .inr (.inr (.inr ⟨by omega, hc, e⟩))

/-! ## Commands: every next state -/

/-- The next states of SEND_START. -/
theorem execSendStart_next {bus addr : Byte} {len : Half} {s t : State} (h : execSendStart bus addr len s = .next t) :
    (s.params.txCapacity < len.toNat ∧ t = answered .bufferOverflow s) ∨
    (len.toNat ≤ s.params.txCapacity ∧ t = answered .ok (startAssembling len s)) := by
  unfold execSendStart at h
  split at h
  · exact .inl ⟨‹_›, by cases h; rfl⟩
  · exact .inr ⟨by omega, by cases h; rfl⟩

/-- The next states of SEND_CONTINUE. -/
theorem execSendContinue_next {z : Bool} {len : Half} {din : List Byte} {s t : State}
    (h : execSendContinue z len din s = .next t) :
    (s.txState ≠ .assembling ∧ t = answered .sequenceError s) ∨
    (s.txState = .assembling ∧ s.txLen.toNat < s.txOff.toNat + len.toNat ∧ t = answered .bufferOverflow s) ∨
    (s.txState = .assembling ∧ s.txOff.toNat + len.toNat ≤ s.txLen.toNat ∧
      s.hasCells .tx s.txOff.toNat (continueBytes z len din).length ∧
      t = answered .ok (s.appended len (continueBytes z len din))) := by
  unfold execSendContinue requireAssembling at h
  split at h
  · rename_i ha
    simp only [Ran.andThen_ok] at h
    rcases appendFrame_cases len (continueBytes z len din) s with ⟨hl, e⟩ | ⟨hl, hc, e⟩ | ⟨-, -, e⟩ <;> rw [e] at h <;>
      cases h
    · exact .inr (.inl ⟨ha, hl, rfl⟩)
    · exact .inr (.inr ⟨ha, hl, hc, rfl⟩)
  · exact .inl ⟨‹_›, by cases h; rfl⟩

/-- What a SEND_STOP in ASSEMBLING leaves before it uses the bus: `IDLE` and its final element, if any, appended. -/
def State.closed (s : State) (p : Bool) (len : Half) (din : List Byte) : State :=
  if p then (endAssembling s).appended len din else endAssembling s

@[simp] theorem State.closed_crcReg (s : State) (p : Bool) (len : Half) (din : List Byte) :
    (s.closed p len din).crcReg = s.crcReg := by cases p <;> rfl
@[simp] theorem State.closed_txState (s : State) (p : Bool) (len : Half) (din : List Byte) :
    (s.closed p len din).txState = .idle := by cases p <;> rfl
@[simp] theorem State.closed_txLen (s : State) (p : Bool) (len : Half) (din : List Byte) :
    (s.closed p len din).txLen = s.txLen := by cases p <;> rfl
@[simp] theorem State.closed_rxState (s : State) (p : Bool) (len : Half) (din : List Byte) :
    (s.closed p len din).rxState = s.rxState := by cases p <;> rfl
@[simp] theorem State.closed_rxLen (s : State) (p : Bool) (len : Half) (din : List Byte) :
    (s.closed p len din).rxLen = s.rxLen := by cases p <;> rfl
@[simp] theorem State.closed_rxOff (s : State) (p : Bool) (len : Half) (din : List Byte) :
    (s.closed p len din).rxOff = s.rxOff := by cases p <;> rfl
@[simp] theorem State.closed_rxb (s : State) (p : Bool) (len : Half) (din : List Byte) :
    (s.closed p len din).rxb = s.rxb := by cases p <;> rfl
@[simp] theorem State.closed_busOpen (s : State) (p : Bool) (len : Half) (din : List Byte) :
    (s.closed p len din).busOpen = s.busOpen := by cases p <;> rfl
@[simp] theorem State.closed_curAddr (s : State) (p : Bool) (len : Half) (din : List Byte) :
    (s.closed p len din).curAddr = s.curAddr := by cases p <;> rfl
@[simp] theorem State.closed_curAddrValid (s : State) (p : Bool) (len : Half) (din : List Byte) :
    (s.closed p len din).curAddrValid = s.curAddrValid := by cases p <;> rfl
@[simp] theorem State.closed_params (s : State) (p : Bool) (len : Half) (din : List Byte) :
    (s.closed p len din).params = s.params := by cases p <;> rfl
@[simp] theorem State.closed_pending (s : State) (p : Bool) (len : Half) (din : List Byte) :
    (s.closed p len din).pending = s.pending := by cases p <;> rfl
@[simp] theorem State.closed_answers (s : State) (p : Bool) (len : Half) (din : List Byte) :
    (s.closed p len din).answers = s.answers := by cases p <;> rfl
@[simp] theorem State.closed_trace (s : State) (p : Bool) (len : Half) (din : List Byte) :
    (s.closed p len din).trace = s.trace := by cases p <;> rfl
@[simp] theorem State.closed_responses (s : State) (p : Bool) (len : Half) (din : List Byte) :
    (s.closed p len din).responses = s.responses := by cases p <;> rfl

/-- The next states of SEND_STOP. -/
theorem execSendStop_next {p : Bool} {bus addr : Byte} {len : Half} {din : List Byte} {s t : State}
    (h : execSendStop p bus addr len din s = .next t) :
    (s.txState ≠ .assembling ∧ t = answered .sequenceError s) ∨
    (s.txState = .assembling ∧ p = true ∧ s.txLen.toNat < s.txOff.toNat + len.toNat ∧
      t = answered .bufferOverflow (endAssembling s)) ∨
    (s.txState = .assembling ∧
      (p = true → s.txOff.toNat + len.toNat ≤ s.txLen.toNat ∧ s.hasCells .tx s.txOff.toNat din.length) ∧
      ((∃ e v, connect bus addr (s.closed p len din) = .raised e v ∧ t = answered e v) ∨
        ∃ v bs c, connect bus addr (s.closed p len din) = .ok () v ∧
          v.txb.readBytes 0 v.txOff.toNat = some bs ∧
          t = answered (if c = .count v.txOff.toNat then .ok else .busWriteError)
            (v.tookWrite.record (.evWrite bs c)))) := by
  unfold execSendStop requireAssembling at h
  split at h
  · rename_i ha
    simp only [Ran.andThen_ok] at h
    have key : (p = true ∧ s.txLen.toNat < s.txOff.toNat + len.toNat ∧ t = answered .bufferOverflow (endAssembling s)) ∨
        ((p = true → s.txOff.toNat + len.toNat ≤ s.txLen.toNat ∧ s.hasCells .tx s.txOff.toNat din.length) ∧
        finish ((connect bus addr (s.closed p len din)).andThen fun _ s =>
          (memRead .tx 0 s.txOff.toNat s).andThen fun bs s =>
          (writeFully bs s.txOff.toNat s).andThen fun _ s => .ok plainOk s) = .next t) := by
      cases p with
      | false => exact .inr ⟨by simp, h⟩
      | true =>
        rw [if_pos rfl] at h
        rcases appendFrame_cases len din (endAssembling s) with ⟨hl, e⟩ | ⟨hl, hc, e⟩ | ⟨-, -, e⟩ <;> rw [e] at h
        · exact .inl ⟨rfl, hl, by cases h; rfl⟩
        · exact .inr ⟨fun _ => ⟨hl, hc⟩, h⟩
        · cases h
    rcases key with ⟨hp, hl, rfl⟩ | ⟨hp, h⟩
    · exact .inr (.inl ⟨ha, hp, hl, rfl⟩)
    refine .inr (.inr ⟨ha, hp, ?_⟩)
    cases hcon : connect bus addr (s.closed p len din) with
    | stopped f => rw [hcon] at h; cases h
    | raised e v => rw [hcon] at h; cases h; exact .inl ⟨e, v, rfl, rfl⟩
    | ok u v =>
      rw [hcon] at h
      simp only [Ran.andThen_ok] at h
      rcases memRead_cases .tx 0 v.txOff.toNat v with ⟨bs, e, hb, -⟩ | ⟨-, e⟩ | ⟨-, e⟩ <;> rw [e] at h
      · simp only [Ran.andThen_ok] at h
        rcases writeFully_cases bs v.txOff.toNat v with ⟨-, e⟩ | ⟨c, hc, e⟩ | ⟨-, e⟩ <;> rw [e] at h <;> cases h
        · exact .inr ⟨v, bs, c, rfl, hb, by rw [if_neg hc]; rfl⟩
        · exact .inr ⟨v, bs, .count v.txOff.toNat, rfl, hb, by rw [if_pos rfl]; rfl⟩
      · cases h
      · cases h
  · exact .inl ⟨‹_›, by cases h; rfl⟩

/-- The next states of SEND_SINGLE. -/
theorem execSendSingle_next {bus addr : Byte} {len : Half} {din : List Byte} {s t : State}
    (h : execSendSingle bus addr len din s = .next t) :
    (∃ e v, connect bus addr s = .raised e v ∧ t = answered e v) ∨
    ∃ v c, connect bus addr s = .ok () v ∧
      t = answered (if c = .count len.toNat then .ok else .busWriteError) (v.tookWrite.record (.evWrite din c)) := by
  unfold execSendSingle at h
  cases hcon : connect bus addr s with
  | stopped f => rw [hcon] at h; cases h
  | raised e v => rw [hcon] at h; cases h; exact .inl ⟨e, v, rfl, rfl⟩
  | ok u v =>
    rw [hcon] at h
    simp only [Ran.andThen_ok] at h
    rcases writeFully_cases din len.toNat v with ⟨-, e⟩ | ⟨c, hc, e⟩ | ⟨-, e⟩ <;> rw [e] at h <;> cases h
    · exact .inr ⟨v, c, rfl, by rw [if_neg hc]; rfl⟩
    · exact .inr ⟨v, .count len.toNat, rfl, by rw [if_pos rfl]; rfl⟩

/-- The next states of WAKE. -/
theorem execWake_next {bus addr : Byte} {s t : State} (h : execWake bus addr s = .next t) :
    (∃ e v, connect bus addr s = .raised e v ∧ t = answered e v) ∨
    ∃ v, connect bus addr s = .ok () v ∧
      ((∃ c, c ≠ .count 1 ∧ t = answered .busWriteError (v.tookWrite.record (.evWrite [0x00] c))) ∨
        t = answered .ok ((v.tookWrite.record (.evWrite [0x00] (.count 1))).record (.evDelay 5))) := by
  unfold execWake at h
  cases hcon : connect bus addr s with
  | stopped f => rw [hcon] at h; cases h
  | raised e v => rw [hcon] at h; cases h; exact .inl ⟨e, v, rfl, rfl⟩
  | ok u v =>
    rw [hcon] at h
    simp only [Ran.andThen_ok] at h
    rcases writeFully_cases wakeBytes 1 v with ⟨-, e⟩ | ⟨c, hc, e⟩ | ⟨-, e⟩ <;> rw [e] at h <;> cases h
    · exact .inr ⟨v, rfl, .inl ⟨c, hc, rfl⟩⟩
    · exact .inr ⟨v, rfl, .inr rfl⟩

/-- The next states of RECV_START. -/
theorem execRecvStart_next {bus addr : Byte} {len : Half} {s t : State} (h : execRecvStart bus addr len s = .next t) :
    (s.params.rxCapacity < len.toNat ∧ t = answered .bufferOverflow s) ∨
    (len.toNat ≤ s.params.rxCapacity ∧
      ((∃ e v, connect bus addr s = .raised e v ∧ t = answered e v) ∨
        ∃ v, connect bus addr s = .ok () v ∧
          ((∃ d, d.length = len.toNat ∧
            t = answered .ok (startFilled len
              { v.tookRead.record (.evRead len.toNat (.count len.toNat) d) with rxb := v.rxb.writeBytes 0 d })) ∨
          ∃ c d b, c ≠ .count len.toNat ∧ b.length = len.toNat ∧
            t = answered .busAckError
              { v.tookRead.record (.evRead len.toNat c d) with rxb := v.rxb.writeBytes 0 b }))) := by
  unfold execRecvStart at h
  split at h
  · exact .inl ⟨‹_›, by cases h; rfl⟩
  refine .inr ⟨by omega, ?_⟩
  cases hcon : connect bus addr s with
  | stopped f => rw [hcon] at h; cases h
  | raised e v => rw [hcon] at h; cases h; exact .inl ⟨e, v, rfl, rfl⟩
  | ok u v =>
    rw [hcon] at h
    simp only [Ran.andThen_ok] at h
    refine .inr ⟨v, rfl, ?_⟩
    rcases readRaw_cases len.toNat v with ⟨-, e⟩ | ⟨-, e⟩ | ⟨d, -, e⟩ <;> rw [e] at h
    · cases h
    · simp only [Ran.andThen_ok] at h
      rw [if_neg (by simp)] at h
      unfold memWrite at h
      split at h
      · cases h
        exact .inr ⟨.err, [], _, by simp, by simp [drawnBytes], rfl⟩
      · cases h
    · simp only [Ran.andThen_ok] at h
      unfold memWrite at h
      split at h
      · rename_i hd
        have hd : d.length = len.toNat := by simpa using hd
        split at h
        · cases h
          exact .inl ⟨d, hd, by rw [hd]; rfl⟩
        · cases h
      · rename_i hd
        split at h
        · cases h
          exact .inr ⟨_, d, _, hd, by simp [drawnBytes], rfl⟩
        · cases h

/-- The next states of RECV_CONTINUE. -/
theorem execRecvContinue_next {len : Half} {s t : State} (h : execRecvContinue len s = .next t) :
    (s.rxState ≠ .filled ∧ t = answered .sequenceError s) ∨
    (s.rxState = .filled ∧ s.rxLen.toNat < s.rxOff.toNat + len.toNat ∧ t = answered .bufferUnderflow s) ∨
    (s.rxState = .filled ∧ s.rxOff.toNat + len.toNat ≤ s.rxLen.toNat ∧
      ∃ d, s.rxb.readBytes s.rxOff.toNat len.toNat = some d ∧
        t = State.respond { s with rxOff := s.rxOff + len } (okResponse 0 0 d)) := by
  unfold execRecvContinue requireFilled at h
  split at h
  · rename_i ha
    simp only [Ran.andThen_ok] at h
    rcases frameBytes_cases len s with ⟨hl, e⟩ | ⟨hl, d, hd, e⟩ | ⟨-, -, e⟩ | ⟨-, -, e⟩ <;> rw [e] at h <;> cases h
    · exact .inr (.inl ⟨ha, hl, rfl⟩)
    · exact .inr (.inr ⟨ha, hl, d, hd, rfl⟩)
  · exact .inl ⟨‹_›, by cases h; rfl⟩

/-- The next states of RECV_STOP. -/
theorem execRecvStop_next {len : Half} {s t : State} (h : execRecvStop len s = .next t) :
    (s.rxState ≠ .filled ∧ t = answered .sequenceError s) ∨
    (s.rxState = .filled ∧ s.rxLen.toNat < s.rxOff.toNat + len.toNat ∧ t = answered .bufferUnderflow s) ∨
    (s.rxState = .filled ∧ s.rxOff.toNat + len.toNat ≤ s.rxLen.toNat ∧
      ∃ d, s.rxb.readBytes s.rxOff.toNat len.toNat = some d ∧
        t = State.respond (endFilled s) (okResponse 0 0 d)) := by
  unfold execRecvStop requireFilled at h
  split at h
  · rename_i ha
    simp only [Ran.andThen_ok] at h
    rcases frameBytes_cases len s with ⟨hl, e⟩ | ⟨hl, d, hd, e⟩ | ⟨-, -, e⟩ | ⟨-, -, e⟩ <;> rw [e] at h <;> cases h
    · exact .inr (.inl ⟨ha, hl, rfl⟩)
    · exact .inr (.inr ⟨ha, hl, d, hd, rfl⟩)
  · exact .inl ⟨‹_›, by cases h; rfl⟩

/-- `s` after a read of `len` bytes with count `c` and bytes `d`. -/
def State.didRead (s : State) (len : Nat) (c : Count) (d : List Byte) : State :=
  s.tookRead.record (.evRead len c d)

@[simp] theorem State.didRead_crcReg (s : State) (n : Nat) (c : Count) (d : List Byte) : (s.didRead n c d).crcReg = s.crcReg := rfl
@[simp] theorem State.didRead_txState (s : State) (n : Nat) (c : Count) (d : List Byte) : (s.didRead n c d).txState = s.txState := rfl
@[simp] theorem State.didRead_txLen (s : State) (n : Nat) (c : Count) (d : List Byte) : (s.didRead n c d).txLen = s.txLen := rfl
@[simp] theorem State.didRead_txOff (s : State) (n : Nat) (c : Count) (d : List Byte) : (s.didRead n c d).txOff = s.txOff := rfl
@[simp] theorem State.didRead_txb (s : State) (n : Nat) (c : Count) (d : List Byte) : (s.didRead n c d).txb = s.txb := rfl
@[simp] theorem State.didRead_rxState (s : State) (n : Nat) (c : Count) (d : List Byte) : (s.didRead n c d).rxState = s.rxState := rfl
@[simp] theorem State.didRead_rxLen (s : State) (n : Nat) (c : Count) (d : List Byte) : (s.didRead n c d).rxLen = s.rxLen := rfl
@[simp] theorem State.didRead_rxOff (s : State) (n : Nat) (c : Count) (d : List Byte) : (s.didRead n c d).rxOff = s.rxOff := rfl
@[simp] theorem State.didRead_rxb (s : State) (n : Nat) (c : Count) (d : List Byte) : (s.didRead n c d).rxb = s.rxb := rfl
@[simp] theorem State.didRead_busOpen (s : State) (n : Nat) (c : Count) (d : List Byte) : (s.didRead n c d).busOpen = s.busOpen := rfl
@[simp] theorem State.didRead_curAddr (s : State) (n : Nat) (c : Count) (d : List Byte) : (s.didRead n c d).curAddr = s.curAddr := rfl
@[simp] theorem State.didRead_curAddrValid (s : State) (n : Nat) (c : Count) (d : List Byte) : (s.didRead n c d).curAddrValid = s.curAddrValid := rfl
@[simp] theorem State.didRead_params (s : State) (n : Nat) (c : Count) (d : List Byte) : (s.didRead n c d).params = s.params := rfl
@[simp] theorem State.didRead_pending (s : State) (n : Nat) (c : Count) (d : List Byte) : (s.didRead n c d).pending = s.pending := rfl
@[simp] theorem State.didRead_answers (s : State) (n : Nat) (c : Count) (d : List Byte) : (s.didRead n c d).answers = { s.answers with reads := s.answers.reads.tail } := rfl
@[simp] theorem State.didRead_trace (s : State) (n : Nat) (c : Count) (d : List Byte) : (s.didRead n c d).trace = s.trace ++ [.evRead n c d] := rfl
@[simp] theorem State.didRead_responses (s : State) (n : Nat) (c : Count) (d : List Byte) : (s.didRead n c d).responses = s.responses := rfl

/-- The next states of RECV_SINGLE. -/
theorem execRecvSingle_next {bus addr : Byte} {s t : State} (h : execRecvSingle bus addr s = .next t) :
    (∃ e v, connect bus addr s = .raised e v ∧ t = answered e v) ∨
    ∃ v, connect bus addr s = .ok () v ∧
      ((∃ c d, c ≠ .count 1 ∧ t = answered .busReadError (v.didRead 1 c d)) ∨
      ∃ h, h.length = 1 ∧
        ((∃ c d, c ≠ .count 2 ∧ t = answered .busReadError ((v.didRead 1 (.count 1) h).didRead 2 c d)) ∨
        ∃ b, b.length = 2 ∧
          ((v.params.rsMaxPayload < payloadLength b ∧
            t = answered .bufferOverflow ((v.didRead 1 (.count 1) h).didRead 2 (.count 2) b)) ∨
          (payloadLength b ≤ v.params.rsMaxPayload ∧
            ((∃ c d, c ≠ .count (payloadLength b) ∧
              t = answered .busReadError
                (((v.didRead 1 (.count 1) h).didRead 2 (.count 2) b).didRead (payloadLength b) c d)) ∨
            ∃ p, p.length = payloadLength b ∧
              t = State.respond
                (((v.didRead 1 (.count 1) h).didRead 2 (.count 2) b).didRead (payloadLength b)
                  (.count (payloadLength b)) p)
                (okResponse (BitVec.ofNat 16 (payloadLength b)) (h.getD 0 0) p)))))) := by
  unfold execRecvSingle at h
  cases hcon : connect bus addr s with
  | stopped f => rw [hcon] at h; cases h
  | raised e v => rw [hcon] at h; cases h; exact .inl ⟨e, v, rfl, rfl⟩
  | ok u v =>
    rw [hcon] at h
    simp only [Ran.andThen_ok] at h
    refine .inr ⟨v, rfl, ?_⟩
    rcases readFully_cases 1 v with ⟨-, e⟩ | ⟨c, d, hc, e⟩ | ⟨d1, h1, -, e⟩ <;> rw [e] at h
    · cases h
    · cases h; exact .inl ⟨c, d, hc, rfl⟩
    refine .inr ⟨d1, h1, ?_⟩
    simp only [Ran.andThen_ok] at h
    generalize hv1 : v.tookRead.record (.evRead 1 (.count 1) d1) = v1 at h
    have hv1' : v.didRead 1 (.count 1) d1 = v1 := hv1
    rw [hv1']
    rcases readFully_cases 2 v1 with ⟨-, e⟩ | ⟨c, d, hc, e⟩ | ⟨d2, h2, -, e⟩ <;> rw [e] at h
    · cases h
    · cases h; exact .inl ⟨c, d, hc, rfl⟩
    refine .inr ⟨d2, h2, ?_⟩
    simp only [Ran.andThen_ok] at h
    generalize hv2 : v1.tookRead.record (.evRead 2 (.count 2) d2) = v2 at h
    have hv2' : v1.didRead 2 (.count 2) d2 = v2 := hv2
    rw [hv2']
    have hp : v2.params = v.params := by subst hv2 hv1; rfl
    rw [hp] at h
    split at h
    · exact .inl ⟨‹_›, by cases h; rfl⟩
    refine .inr ⟨by omega, ?_⟩
    rcases readFully_cases (payloadLength d2) v2 with ⟨-, e⟩ | ⟨c, d, hc, e⟩ | ⟨p, h3, -, e⟩ <;> rw [e] at h
    · cases h
    · cases h; exact .inl ⟨c, d, hc, rfl⟩
    · cases h; exact .inr ⟨p, h3, rfl⟩

/-- CRC_CALCULATE has one next state. -/
theorem execCrcCalculate_eq (len : Half) (din : List Byte) (s : State) :
    execCrcCalculate len din s =
      .next (State.respond { s with crcReg := foldAll Config.crcInit din }
        (okResponse (~~~foldAll Config.crcInit din) 0 [])) := rfl

/-- CRC_ACCUMULATE has one next state. -/
theorem execCrcAccumulate_eq (len : Half) (din : List Byte) (s : State) :
    execCrcAccumulate len din s =
      .next (State.respond { s with crcReg := foldAll s.crcReg din } (okResponse (~~~foldAll s.crcReg din) 0 [])) := rfl

end Sys2Proof.Machine
end

