-- ==== Sys2Proof/Laws/PerInstr.lean ====
section
/-! SUPPORT. Per instruction: the encoder's words carry the fixed bits of the instruction's row of 30_encoding.md R85, the
reserved half of `ARG` zero, and the row's opcode. One lemma per constructor. -/

namespace Sys2Proof.Laws.RowBits

/-- The words of `i` pass the checks of R86 on the fixed bits: an assigned opcode, its row's mask and match, and
`ARG[31:16] = 0`. -/
def Statement (i : Instr) : Prop :=
  ∃ op, opcodeOf (opcField (encode i).cmd) = some op ∧ (encode i).cmd &&& cmdMask op = cmdPattern op ∧
    rsvField (encode i).arg = 0

/-- The three parts for a word built by `cmdWord` and `argWord`. -/
theorem of_cmdWord {i : Instr} {o : BitVec 4} {z p : Bool} {b a : Byte} {l : Half} {d : List Byte} {op : Opcode}
    (he : encode i = ⟨cmdWord o z p b a, argWord l, d⟩) (ho : opcodeOf o = some op)
    (hm : ∀ j, j < 32 → ((cmdWord o z p b a).getLsbD j && (cmdMask op).getLsbD j) = (cmdPattern op).getLsbD j) :
    Statement i := by
  refine ⟨op, ?_, ?_, ?_⟩ <;> rw [he]
  · rw [opcField_cmdWord]
    exact ho
  · exact cmdWord_and_mask hm
  · exact rsvField_argWord l

theorem sendStart (bus : Byte) (addr : Byte) (len : Half) : Statement (.sendStart bus addr len) := by
  refine of_cmdWord rfl rfl fun j hj => ?_
  simp only [cmdWord, BitVec.getLsbD_append, cmdMask, cmdPattern]
  interval_cases j <;> simp

theorem sendContinue (z : Bool) (len : Half) (din : List Byte) : Statement (.sendContinue z len din) := by
  refine of_cmdWord rfl rfl fun j hj => ?_
  simp only [cmdWord, BitVec.getLsbD_append, cmdMask, cmdPattern]
  interval_cases j <;> simp

theorem sendStop (p : Bool) (bus : Byte) (addr : Byte) (len : Half) (din : List Byte) : Statement (.sendStop p bus addr len din) := by
  refine of_cmdWord rfl rfl fun j hj => ?_
  simp only [cmdWord, BitVec.getLsbD_append, cmdMask, cmdPattern]
  interval_cases j <;> simp

theorem sendSingle (bus : Byte) (addr : Byte) (len : Half) (din : List Byte) : Statement (.sendSingle bus addr len din) := by
  refine of_cmdWord rfl rfl fun j hj => ?_
  simp only [cmdWord, BitVec.getLsbD_append, cmdMask, cmdPattern]
  interval_cases j <;> simp

theorem wake (bus : Byte) (addr : Byte) : Statement (.wake bus addr) := by
  refine of_cmdWord rfl rfl fun j hj => ?_
  simp only [cmdWord, BitVec.getLsbD_append, cmdMask, cmdPattern]
  interval_cases j <;> simp

theorem recvStart (bus : Byte) (addr : Byte) (len : Half) : Statement (.recvStart bus addr len) := by
  refine of_cmdWord rfl rfl fun j hj => ?_
  simp only [cmdWord, BitVec.getLsbD_append, cmdMask, cmdPattern]
  interval_cases j <;> simp

theorem recvContinue (len : Half) : Statement (.recvContinue len) := by
  refine of_cmdWord rfl rfl fun j hj => ?_
  simp only [cmdWord, BitVec.getLsbD_append, cmdMask, cmdPattern]
  interval_cases j <;> simp

theorem recvStop (len : Half) : Statement (.recvStop len) := by
  refine of_cmdWord rfl rfl fun j hj => ?_
  simp only [cmdWord, BitVec.getLsbD_append, cmdMask, cmdPattern]
  interval_cases j <;> simp

theorem recvSingle (bus : Byte) (addr : Byte) : Statement (.recvSingle bus addr) := by
  refine of_cmdWord rfl rfl fun j hj => ?_
  simp only [cmdWord, BitVec.getLsbD_append, cmdMask, cmdPattern]
  interval_cases j <;> simp

theorem crcCalculate (len : Half) (din : List Byte) : Statement (.crcCalculate len din) := by
  refine of_cmdWord rfl rfl fun j hj => ?_
  simp only [cmdWord, BitVec.getLsbD_append, cmdMask, cmdPattern]
  interval_cases j <;> simp

theorem crcAccumulate (len : Half) (din : List Byte) : Statement (.crcAccumulate len din) := by
  refine of_cmdWord rfl rfl fun j hj => ?_
  simp only [cmdWord, BitVec.getLsbD_append, cmdMask, cmdPattern]
  interval_cases j <;> simp

end Sys2Proof.Laws.RowBits
end

