-- ==== Sys2Proof/Tests/Slice0.lean ====
section
/-! SUPPORT. The model's own tests. Expected results are those of spec/95_test_vectors.md, by the identifier named. First the
well-formedness smoke test, then decoding, then one or two steps an instruction, then the host's interface. -/

open Sys2Proof Sys2Proof.Machine Sys2Proof.Safety

namespace Sys2Proof.Tests

/-! ## Small states -/

/-- A state with known contents: reset with `CRC_REG = 0x1234`. -/
def base : State := { State.reset with crcReg := 0x1234 }

/-- The bus open and addressed at 0x48 (95_test_vectors.md sections 5 and 6). -/
def opened : State := { base with busOpen := true, curAddr := 0x48, curAddrValid := true }

/-- `s` with bus answers fixed. -/
def fixing (s : State) (o a : List (Reply Unit)) (w : List (Reply Nat)) (r : List (Reply (List Byte))) : State :=
  { s with answers := ⟨o, a, w, r⟩ }

/-- `A(l, |bs|)` with `TXB = bs`. -/
def asm (s : State) (l : Half) (bs : List Byte) : State :=
  { s with txState := .assembling, txLen := l, txOff := BitVec.ofNat 16 bs.length, txb := Memory.writeBytes [] 0 bs }

/-- `F(|bs|, o)` with `RXB = bs`. -/
def fil (s : State) (o : Half) (bs : List Byte) : State :=
  { s with rxState := .filled, rxLen := BitVec.ofNat 16 bs.length, rxOff := o, rxb := Memory.writeBytes [] 0 bs }

/-- A view of the next state, none when the step stopped. -/
def view {α : Type} (f : State → α) : Host.Outcome State Fault Refusal → Option α
  | .next s => some (f s)
  | .fault _ => none
  | .refused _ => none

/-- The answers given. -/
def replies (s : State) : List Response := s.responses

/-- What the decoder answered, as options. -/
def decoded (c : Command) : Option Instr :=
  match decode c with
  | .ok i => some i
  | .error _ => none

/-- Why the decoder refused. -/
def refusedBy (c : Command) : Option Reject :=
  match decode c with
  | .ok _ => none
  | .error r => some r

/-! ## Well-formedness: an ill-formed term for each check -/

theorem test_illFormed_continue_short : (Instr.sendContinue false 2 [1]).wellFormed = false := by decide
theorem test_illFormed_continue_zero : (Instr.sendContinue true 2 [1, 2]).wellFormed = false := by decide
theorem test_illFormed_stop_final : (Instr.sendStop true 1 0x48 2 [1]).wellFormed = false := by decide
theorem test_illFormed_stop_len : (Instr.sendStop false 1 0x48 1 []).wellFormed = false := by decide
theorem test_illFormed_stop_din : (Instr.sendStop false 1 0x48 0 [1]).wellFormed = false := by decide
theorem test_illFormed_single : (Instr.sendSingle 1 0x48 0 [1]).wellFormed = false := by decide
theorem test_illFormed_calculate : (Instr.crcCalculate 1 []).wellFormed = false := by decide
theorem test_illFormed_accumulate : (Instr.crcAccumulate 1 [1, 2]).wellFormed = false := by decide
theorem test_wellFormed_stop : (Instr.sendStop true 1 0x48 2 [3, 4]).wellFormed = true := by decide

/-! ## Decoding: section 3, V-ENC-1 to V-ENC-32 -/

theorem test_decode_sendStart : decoded ⟨0x00480101, 0x00000004, []⟩ = some (.sendStart 1 0x48 4) := by decide
theorem test_decode_sendStart_ignored : decoded ⟨0x00FFFF01, 0, []⟩ = some (.sendStart 255 0xFF 0) := by decide
theorem test_decode_sendContinue :
    decoded ⟨0x00000002, 0x00000002, [7, 9]⟩ = some (.sendContinue false 2 [7, 9]) := by decide
theorem test_decode_sendContinueZ : decoded ⟨0x00000012, 0x00000002, []⟩ = some (.sendContinue true 2 []) := by decide
theorem test_decode_sendStop : decoded ⟨0x00480103, 0, []⟩ = some (.sendStop false 1 0x48 0 []) := by decide
theorem test_decode_sendStop_final :
    decoded ⟨0x00480123, 0x00000002, [3, 4]⟩ = some (.sendStop true 1 0x48 2 [3, 4]) := by decide
theorem test_decode_sendSingle :
    decoded ⟨0x00480104, 0x00000002, [5, 6]⟩ = some (.sendSingle 1 0x48 2 [5, 6]) := by decide
theorem test_decode_wake : decoded ⟨0x00480105, 0, []⟩ = some (.wake 1 0x48) := by decide
theorem test_decode_recvStart : decoded ⟨0x00480106, 0x00000003, []⟩ = some (.recvStart 1 0x48 3) := by decide
theorem test_decode_recvContinue : decoded ⟨0x00000007, 0x00000002, []⟩ = some (.recvContinue 2) := by decide
theorem test_decode_recvStop : decoded ⟨0x00000008, 0x00000001, []⟩ = some (.recvStop 1) := by decide
theorem test_decode_recvSingle : decoded ⟨0x00480109, 0, []⟩ = some (.recvSingle 1 0x48) := by decide
theorem test_decode_crcCalculate :
    decoded ⟨0x0000000A, 0x00000003, [1, 2, 3]⟩ = some (.crcCalculate 3 [1, 2, 3]) := by decide
theorem test_decode_crcAccumulate :
    decoded ⟨0x0000000B, 0x00000004, [1, 2, 3, 4]⟩ = some (.crcAccumulate 4 [1, 2, 3, 4]) := by decide
theorem test_decode_crcCalculate_empty : decoded ⟨0x0000000A, 0, []⟩ = some (.crcCalculate 0 []) := by decide

theorem test_reject_opcode :
    refusedBy ⟨0x00000000, 0, []⟩ = some .reservedOpcode ∧ refusedBy ⟨0x0000000C, 0, []⟩ = some .reservedOpcode ∧
      refusedBy ⟨0x0000000F, 0, []⟩ = some .reservedOpcode := by decide
theorem test_reject_cmdField :
    refusedBy ⟨0x00000041, 1, []⟩ = some .reservedCmdField ∧ refusedBy ⟨0x01000001, 1, []⟩ = some .reservedCmdField ∧
      refusedBy ⟨0x00000011, 1, []⟩ = some .reservedCmdField := by decide
theorem test_reject_cmdField_perCommand :
    refusedBy ⟨0x00000022, 1, [1]⟩ = some .reservedCmdField ∧ refusedBy ⟨0x00000102, 1, [1]⟩ = some .reservedCmdField ∧
      refusedBy ⟨0x00480007, 1, []⟩ = some .reservedCmdField ∧
      refusedBy ⟨0x00480113, 0, []⟩ = some .reservedCmdField := by decide
theorem test_reject_arg :
    refusedBy ⟨0x00480101, 0x00010000, []⟩ = some .reservedArgField ∧
      refusedBy ⟨0x00480103, 1, []⟩ = some .lenWithoutFinal := by decide
theorem test_reject_lenMustBeZero :
    refusedBy ⟨0x00480105, 1, []⟩ = some .lenMustBeZero ∧ refusedBy ⟨0x00480109, 1, []⟩ = some .lenMustBeZero := by
  decide
theorem test_reject_dinLength :
    refusedBy ⟨0x00000002, 2, [1]⟩ = some .dinLength ∧ refusedBy ⟨0x00000012, 2, [1, 2]⟩ = some .dinLength ∧
      refusedBy ⟨0x00480106, 3, [1, 2, 3]⟩ = some .dinLength := by decide

/-- V-ENC-33: an illegal command changes nothing but takes its answer. -/
theorem test_illegal_changes_nothing :
    view (fun t => (t.txState, t.txOff, t.trace, replies t)) (step ((fil (asm opened 4 [1, 2]) 0 [9]).issue ⟨0, 0, []⟩)) =
      some (.assembling, 2, [], [⟨.illegalCommand, 0, 0, []⟩]) := by decide

/-- The table's numbering: `CMD` first, then `ARG`, then `DIN` (log entry 12). -/
theorem test_decodeTableWord :
    decodeTableWord 64 0x00480101 = some (.sendStart 1 0x48 0) ∧
      decodeTableWord 32 0x0000000A = some (.crcCalculate 0 []) ∧
      decodeTableWord 80 0x02010000000200000002 = some (.sendContinue false 2 [1, 2]) ∧
      decodeTableWord 64 0x0000000C = none := by decide

/-- The next step runs the word placed. -/
theorem test_withFetchWord :
    view (fun t => (t.crcReg, replies t)) (step (base.withFetchWord 72 0x41000000010000000A)) =
      some (0x5C0A, [⟨.ok, 0xA3F5, 0, []⟩]) := by decide

/-! ## Commands: sections 2, 4, 5 and 6 -/

/-- V-TX-1 and V-TX-4: exactly the capacity, from IDLE, and a new frame in place of an old one. -/
theorem test_sendStart :
    view (fun t => (t.txState, t.txLen, t.txOff, t.trace)) (exec (.sendStart 1 0x48 755) base) =
      some (.assembling, 755, 0, []) ∧
    view (fun t => (t.txLen, t.txOff)) (exec (.sendStart 1 0x48 3) (asm base 4 [1, 2])) = some (3, 0) := by decide

/-- V-TX-3: one more than the capacity. -/
theorem test_sendStart_overflow :
    view (fun t => (t.txState, t.txLen, t.txOff, replies t)) (exec (.sendStart 1 0x48 756) (asm base 4 [1, 2])) =
      some (.assembling, 4, 2, [⟨.bufferOverflow, 0, 0, []⟩]) := by decide

/-- V-TX-6 and V-TX-9: an exact fill with data and with zeros. -/
theorem test_sendContinue :
    view (fun t => (t.txOff, t.txb)) (exec (.sendContinue false 4 [1, 2, 3, 4]) (asm base 4 [])) =
      some (4, [(0, 1), (1, 2), (2, 3), (3, 4)]) ∧
    view (fun t => (t.txOff, t.txb)) (exec (.sendContinue true 3 []) (asm base 4 [9])) =
      some (4, [(0, 9), (1, 0), (2, 0), (3, 0)]) := by decide

/-- V-TX-5, V-TX-7 and V-TX-10: the wrong state, and one byte too many. -/
theorem test_sendContinue_errors :
    view replies (exec (.sendContinue false 1 [1]) base) = some [⟨.sequenceError, 0, 0, []⟩] ∧
    view (fun t => (t.txOff, t.txb, replies t)) (exec (.sendContinue false 3 [3, 4, 5]) (asm base 4 [1, 2])) =
      some (2, [(0, 1), (1, 2)], [⟨.bufferOverflow, 0, 0, []⟩]) ∧
    view replies (exec (.sendContinue true 1 []) (asm base 4 [1, 2, 3, 4])) = some [⟨.bufferOverflow, 0, 0, []⟩] := by
  decide

/-- V-TX-13, V-TX-15 and V-TX-16: a final element, an under-filled frame and an empty one. -/
theorem test_sendStop :
    view (fun t => (t.txState, t.txOff, t.trace, replies t))
        (exec (.sendStop true 1 0x48 2 [3, 4]) (fixing (asm opened 4 [1, 2]) [] [] [.ok 4] [])) =
      some (.idle, 4, [.evWrite [1, 2, 3, 4] (.count 4)], [⟨.ok, 0, 0, []⟩]) ∧
    view (fun t => (t.trace, replies t)) (exec (.sendStop false 1 0x48 0 []) (fixing (asm opened 4 [1, 2]) [] [] [.ok 2] [])) =
      some ([.evWrite [1, 2] (.count 2)], [⟨.ok, 0, 0, []⟩]) ∧
    view (fun t => (t.trace, replies t)) (exec (.sendStop false 1 0x48 0 []) (fixing (asm opened 0 []) [] [] [.ok 0] [])) =
      some ([.evWrite [] (.count 0)], [⟨.ok, 0, 0, []⟩]) := by decide

/-- V-TX-14, V-TX-17 and V-TX-19: overflow, a short write and a failed open; the frame ends each time. -/
theorem test_sendStop_errors :
    view (fun t => (t.txState, t.trace, replies t)) (exec (.sendStop true 1 0x48 3 [3, 4, 5]) (asm opened 4 [1, 2])) =
      some (.idle, [], [⟨.bufferOverflow, 0, 0, []⟩]) ∧
    view (fun t => (t.txState, t.txb, replies t))
        (exec (.sendStop false 1 0x48 0 []) (fixing (asm opened 2 [1, 2]) [] [] [.ok 1] [])) =
      some (.idle, [(0, 1), (1, 2)], [⟨.busWriteError, 0, 0, []⟩]) ∧
    view (fun t => (t.txState, t.txb, t.trace))
        (exec (.sendStop true 1 0x48 2 [1, 2]) (fixing (asm base 2 []) [.err] [] [] [])) =
      some (.idle, [(0, 1), (1, 2)], [.evOpen 1 .err]) := by decide

/-- V-BUS-1 and V-BUS-4: the first command opens and addresses, a later one addresses again only for a new address. -/
theorem test_sendSingle :
    view (fun t => (t.trace, t.busOpen, t.curAddr, t.curAddrValid, replies t))
        (exec (.sendSingle 1 0x48 1 [0xAA]) (fixing base [.ok ()] [.ok ()] [.ok 1] [])) =
      some ([.evOpen 1 .ok, .evSetAddr 0x48 .ok, .evWrite [0xAA] (.count 1)], true, 0x48, true, [⟨.ok, 0, 0, []⟩]) ∧
    view (fun t => (t.trace, t.curAddr)) (exec (.sendSingle 2 0x50 1 [0xAA]) (fixing opened [] [.ok ()] [.ok 1] [])) =
      some ([.evSetAddr 0x50 .ok, .evWrite [0xAA] (.count 1)], 0x50) := by decide

/-- V-BUS-5, V-BUS-7 and V-BUS-10: a failed open, a failed set-address and a count above the request. -/
theorem test_sendSingle_errors :
    view (fun t => (t.trace, t.busOpen, replies t)) (exec (.sendSingle 1 0x48 1 [0xAA]) (fixing base [.err] [] [] [])) =
      some ([.evOpen 1 .err], false, [⟨.busOpenError, 0, 0, []⟩]) ∧
    view (fun t => (t.trace, t.curAddrValid, replies t))
        (exec (.sendSingle 1 0x50 1 [0xAA]) (fixing opened [] [.err] [] [])) =
      some ([.evSetAddr 0x50 .err], false, [⟨.busAddressError, 0, 0, []⟩]) ∧
    view (fun t => (t.trace, t.curAddrValid, replies t))
        (exec (.sendSingle 1 0x48 1 [0xAA]) (fixing opened [] [] [.ok 2] [])) =
      some ([.evWrite [0xAA] (.count 2)], true, [⟨.busWriteError, 0, 0, []⟩]) := by decide

/-- V-SRC-9 and V-TX-23: the wake byte and its delay; no delay after a short write. -/
theorem test_wake :
    view (fun t => (t.trace, replies t)) (exec (.wake 1 0x48) (fixing base [.ok ()] [.ok ()] [.ok 1] [])) =
      some ([.evOpen 1 .ok, .evSetAddr 0x48 .ok, .evWrite [0] (.count 1), .evDelay 5], [⟨.ok, 0, 0, []⟩]) ∧
    view (fun t => (t.trace, replies t)) (exec (.wake 1 0x48) (fixing opened [] [] [.ok 0] [])) =
      some ([.evWrite [0] (.count 0)], [⟨.busWriteError, 0, 0, []⟩]) := by decide

/-- V-RX-1 and V-RX-4: three bytes received, and none. -/
theorem test_recvStart :
    view (fun t => (t.rxState, t.rxLen, t.rxOff, t.rxb))
        (exec (.recvStart 1 0x48 3) (fixing opened [] [] [] [.ok [0xA1, 0xB2, 0xC3]])) =
      some (.filled, 3, 0, [(0, 0xA1), (1, 0xB2), (2, 0xC3)]) ∧
    view (fun t => (t.rxState, t.trace)) (exec (.recvStart 1 0x48 0) (fixing opened [] [] [] [.ok []])) =
      some (.filled, [.evRead 0 (.count 0) []]) := by decide

/-- V-RX-2 and V-RX-6: over the capacity, and a read that fails: the old frame stays but for the drawn cells. -/
theorem test_recvStart_errors :
    view (fun t => (t.trace, replies t)) (exec (.recvStart 1 0x48 756) opened) =
      some ([], [⟨.bufferOverflow, 0, 0, []⟩]) ∧
    view (fun t => (t.rxState, t.rxLen, t.rxOff, t.rxb.readByte 2, replies t))
        (exec (.recvStart 1 0x48 2) (fixing (fil opened 1 [0xA1, 0xB2, 0xC3]) [] [] [] [.err])) =
      some (.filled, 3, 1, some 0xC3, [⟨.busAckError, 0, 0, []⟩]) := by decide

/-- V-RX-9 and V-RX-11: the next bytes, and none from a frame fully taken. -/
theorem test_recvContinue :
    view (fun t => (t.rxState, t.rxOff, replies t)) (exec (.recvContinue 2) (fil base 0 [0xA1, 0xB2, 0xC3])) =
      some (.filled, 2, [⟨.ok, 0, 0, [0xA1, 0xB2]⟩]) ∧
    view (fun t => (t.rxState, t.rxOff, replies t)) (exec (.recvContinue 0) (fil base 3 [0xA1, 0xB2, 0xC3])) =
      some (.filled, 3, [⟨.ok, 0, 0, []⟩]) := by decide

/-- V-RX-8 and V-RX-10: the wrong state, and more than remains. -/
theorem test_recvContinue_errors :
    view replies (exec (.recvContinue 1) base) = some [⟨.sequenceError, 0, 0, []⟩] ∧
    view (fun t => (t.rxOff, replies t)) (exec (.recvContinue 2) (fil base 2 [0xA1, 0xB2, 0xC3])) =
      some (2, [⟨.bufferUnderflow, 0, 0, []⟩]) := by decide

/-- V-RX-12 and V-RX-14: the last byte, and an early stop. -/
theorem test_recvStop :
    view (fun t => (t.rxState, t.rxOff, replies t)) (exec (.recvStop 1) (fil base 2 [0xA1, 0xB2, 0xC3])) =
      some (.idle, 0, [⟨.ok, 0, 0, [0xC3]⟩]) ∧
    view (fun t => (t.rxState, replies t)) (exec (.recvStop 1) (fil base 0 [0xA1, 0xB2, 0xC3])) =
      some (.idle, [⟨.ok, 0, 0, [0xA1]⟩]) := by decide

/-- V-RX-13 and V-RX-16: more than remains leaves the frame; the wrong state. -/
theorem test_recvStop_errors :
    view (fun t => (t.rxState, t.rxOff, replies t)) (exec (.recvStop 2) (fil base 2 [0xA1, 0xB2, 0xC3])) =
      some (.filled, 2, [⟨.bufferUnderflow, 0, 0, []⟩]) ∧
    view replies (exec (.recvStop 0) base) = some [⟨.sequenceError, 0, 0, []⟩] := by decide

/-- P4 command 2: header, big-endian length and payload. -/
theorem test_recvSingle :
    view (fun t => (t.trace, replies t))
        (exec (.recvSingle 1 0x48) (fixing opened [] [] [] [.ok [0x90], .ok [0, 3], .ok [0x11, 0x22, 0x33]])) =
      some ([.evRead 1 (.count 1) [0x90], .evRead 2 (.count 2) [0, 3], .evRead 3 (.count 3) [0x11, 0x22, 0x33]],
        [⟨.ok, 3, 0x90, [0x11, 0x22, 0x33]⟩]) := by decide

/-- V-RX-19 to V-RX-22: a length over the bound, and each of the three reads short. -/
theorem test_recvSingle_errors :
    view replies (exec (.recvSingle 1 0x48) (fixing opened [] [] [] [.ok [0x90], .ok [2, 0xF4]])) =
      some [⟨.bufferOverflow, 0, 0, []⟩] ∧
    view replies (exec (.recvSingle 1 0x48) (fixing opened [] [] [] [.ok []])) = some [⟨.busReadError, 0, 0, []⟩] ∧
    view replies (exec (.recvSingle 1 0x48) (fixing opened [] [] [] [.ok [0x90], .ok [0]])) =
      some [⟨.busReadError, 0, 0, []⟩] ∧
    view replies (exec (.recvSingle 1 0x48) (fixing opened [] [] [] [.ok [0x90], .ok [0, 3], .ok [0x11, 0x22]])) =
      some [⟨.busReadError, 0, 0, []⟩] := by decide

/-- V-CRC-2: the check value. -/
theorem test_crcCalculate_check :
    view (fun t => (t.crcReg, replies t))
        (exec (.crcCalculate 9 [0x31, 0x32, 0x33, 0x34, 0x35, 0x36, 0x37, 0x38, 0x39]) base) =
      some (0x6F91, [⟨.ok, 0x906E, 0, []⟩]) := by decide

/-- V-CRC-1 and V-CRC-22: no byte, and a register that reaches 0. -/
theorem test_crcCalculate_corners :
    view (fun t => (t.crcReg, replies t)) (exec (.crcCalculate 0 []) base) = some (0xFFFF, [⟨.ok, 0, 0, []⟩]) ∧
    view (fun t => (t.crcReg, replies t)) (exec (.crcCalculate 2 [0xFF, 0xFF]) base) =
      some (0, [⟨.ok, 0xFFFF, 0, []⟩]) := by decide

/-- V-CRC-35 and V-CRC-37. -/
theorem test_crcAccumulate :
    view (fun t => (t.crcReg, replies t)) (exec (.crcAccumulate 0 []) base) = some (0x1234, [⟨.ok, 0xEDCB, 0, []⟩]) ∧
    view (fun t => (t.crcReg, replies t)) (exec (.crcAccumulate 1 [0x41]) base) =
      some (0x2438, [⟨.ok, 0xDBC7, 0, []⟩]) := by decide

/-- V-CRC-31: the chained check value. -/
theorem test_crcAccumulate_chain :
    view (fun t => (t.crcReg, replies t)) (exec (.crcAccumulate 4 [0x36, 0x37, 0x38, 0x39]) { base with crcReg := 0x44BF }) =
      some (0x6F91, [⟨.ok, 0x906E, 0, []⟩]) := by decide

/-- V-CRC-11 to V-CRC-15: single folds. -/
theorem test_fold :
    fold 0xFFFF 0x31 = 0x2F8D ∧ fold 0xFFFF 0 = 0x0F87 ∧ fold 0 1 = 0x1189 ∧ fold 0x1234 0x34 = 0x0012 ∧
      fold 0xFFFF 0xFF = 0x00FF := by decide

/-- The assembler forms of 30_encoding.md R91 spelled out, and a pseudo-instruction of R92. -/
theorem test_assembler :
    (Asm.sendStart 1 0x48 5).print = "SEND_START 1, 72, 5" ∧ (Asm.sendContinueZ 3).print = "SEND_CONTINUE.Z 3" ∧
      (Pseudo.recvFrame 1 0x48 4).expand = some [.recvStart 1 0x48 4, .recvStop 4] := by decide

/-! ## Witnesses: for each statement with hypotheses, states and operands that meet them all together, each clause at a
boundary value -/

/-- A state that meets `GoodState` with both frames in use. -/
def busy : State := fil (asm opened 4 [1, 2]) 1 [0xA1, 0xB2, 0xC3]

/-- Each of the three bus answers a command may need, all successful. -/
def kind (s : State) : State := fixing s [.ok ()] [.ok ()] [.ok 1] [.ok [0x90], .ok [0, 1], .ok [0x77]]

theorem witness_good : GoodState busy := by decide

theorem witness_DecodeReadsEncodeBack :
    (Instr.sendStop true 255 0 2 [0, 255]).wellFormed = true ∧ (Instr.recvStart 0 255 0xFFFF).wellFormed = true := by
  decide

theorem witness_EncodeReproducesDecodedWords : ∃ c i, decode c = .ok i :=
  ⟨⟨0x00480123, 2, [3, 4]⟩, .sendStop true 1 0x48 2 [3, 4], rfl⟩

theorem witness_DecoderDispatchesExactlyLegalCommands :
    (∃ (s : State) (c : Command) (cs : List Command), s.pending = c :: cs ∧ Legal c) ∧
      ∃ (s : State) (c : Command) (cs : List Command), s.pending = c :: cs ∧ ¬ Legal c :=
  ⟨⟨base.issue ⟨0x00480123, 2, [3, 4]⟩, _, _, rfl, by decide⟩,
    ⟨base.issue ⟨0x00480103, 1, []⟩, _, _, rfl, by decide⟩⟩

theorem witness_OperandsAreTheFields : ∃ i, decode ⟨0x00FFFF04, 1, [7]⟩ = .ok i ∧
    (operandsOf i).bus = some 0xFF ∧ (operandsOf i).addr = some 0xFF ∧ (operandsOf i).din = some [7] :=
  ⟨.sendSingle 0xFF 0xFF 1 [7], rfl, rfl, rfl, rfl⟩

theorem witness_StepRunsDecodedInstruction :
    ∃ (s : State) (c : Command) (cs : List Command) (i : Instr), s.pending = c :: cs ∧ decode c = .ok i :=
  ⟨base.issue ⟨0x00480105, 0, []⟩, _, _, .wake 1 0x48, rfl, rfl⟩

theorem witness_StepWithoutCommandWaits : base.pending = [] := rfl

theorem witness_StepAnswersOneCommand :
    ∃ (s t : State) (c : Command) (cs : List Command), s.pending = c :: cs ∧ step s = .next t :=
  ⟨base.issue ⟨0, 0, []⟩, _, _, _, rfl, rfl⟩

theorem witness_EnsureOpenOpensOnce :
    opened.busOpen = true ∧ (base.busOpen = false ∧ openReply 1 (fixing base [.ok ()] [] [] []) = .ok ()) ∧
      openReply 1 (fixing base [.err] [] [] []) = .err := by decide

theorem witness_EnsureAddressedCaches :
    (opened.curAddrValid = true ∧ opened.curAddr = 0x48) ∧
      (¬ (opened.curAddrValid = true ∧ opened.curAddr = 0x49) ∧
        setAddrReply 0x49 (fixing opened [] [.ok ()] [] []) = .ok ()) ∧
      (¬ (base.curAddrValid = true ∧ base.curAddr = 0) ∧ setAddrReply 0 (fixing base [] [.err] [] []) = .err) := by
  decide

/-- A command that fails its own check, and one that passes it. -/
theorem witness_BusEventsInOrder :
    (∃ i bus addr t, busFields i = some (bus, addr) ∧ exec i busy = .next t ∧ failsOwnChecks i busy) ∧
      ∃ i bus addr t, busFields i = some (bus, addr) ∧ exec i (kind base) = .next t ∧ ¬ failsOwnChecks i (kind base) :=
  ⟨⟨.sendStop true 1 0x48 3 [3, 4, 5], 1, 0x48, _, rfl, rfl, .inr ⟨rfl, by decide⟩⟩,
    ⟨.wake 1 0x48, 1, 0x48, _, rfl, rfl, id⟩⟩

theorem witness_SixCommandsNeverTouchTheBus : ∃ i s t, busFields i = none ∧ exec i s = .next t :=
  ⟨.recvStop 2, busy, _, rfl, rfl⟩

theorem witness_OpenBusIgnoresTheBusField : opened.busOpen = true := rfl

theorem witness_SendStartDeclaresFrame :
    (755 : Half).toNat ≤ base.params.txCapacity ∧ base.params.txCapacity < (756 : Half).toNat := by decide

theorem witness_SendContinueAppends :
    (Instr.sendContinue false 2 [3, 4]).wellFormed = true ∧ (Instr.sendContinue true 3 []).wellFormed = true ∧
      base.txState ≠ .assembling ∧
      (busy.txState = .assembling ∧ busy.txLen.toNat < busy.txOff.toNat + (3 : Half).toNat) ∧
      (busy.txState = .assembling ∧ busy.txOff.toNat + (2 : Half).toNat ≤ busy.txLen.toNat ∧
        busy.txLen.toNat ≤ busy.params.txCapacity) := by decide

/-- A full frame of two bytes, a final element of two more, and the short count 3. -/
theorem witness_SendStopSendsAssembledBytes :
    ∃ s1 s2, (Instr.sendStop true 1 0x48 2 [3, 4]).wellFormed = true ∧ busy.txState = .assembling ∧
      ([1, 2] : List Byte).length = busy.txOff.toNat ∧ Holds busy.txb 0 [1, 2] ∧
      busy.txOff.toNat + (2 : Half).toNat ≤ busy.txLen.toNat ∧ busy.txLen.toNat ≤ busy.params.txCapacity ∧
      connect 1 0x48 (fixing busy [] [] [.ok 3] []) = .ok () s1 ∧ WritesWith ([1, 2] ++ [3, 4]) (.count 3) s1 s2 :=
  ⟨_, _, rfl, rfl, rfl, by decide, by decide, by decide, rfl, .inr ⟨3, rfl, rfl⟩, rfl⟩

theorem witness_SendStopBusHandleError :
    ∃ e s1, (Instr.sendStop false 1 0x50 0 []).wellFormed = true ∧ busy.txState = .assembling ∧
      busy.txOff.toNat + (0 : Half).toNat ≤ busy.txLen.toNat ∧ busy.txLen.toNat ≤ busy.params.txCapacity ∧
      connect 1 0x50 (fixing busy [] [.err] [] []) = .raised e s1 :=
  ⟨_, _, rfl, rfl, by decide, by decide, rfl⟩

theorem witness_SendStopOverflowSendsNothing :
    busy.txState = .assembling ∧ busy.txLen.toNat < busy.txOff.toNat + (3 : Half).toNat := by decide

theorem witness_SendStopEndsFrame :
    ∃ t u, exec (.sendStop true 1 0x48 3 [3, 4, 5]) busy = .next t ∧
      (∀ i ∈ [Instr.recvStop 2], ∀ bus addr len, i ≠ .sendStart bus addr len) ∧
      execAll [.recvStop 2] t = .next u :=
  ⟨_, _, rfl, by simp, rfl⟩

/-- A short write; then a RECV_STOP and a SEND_STOP, and a SEND_START after them. -/
theorem witness_FailedFlushKeepsTheAppend :
    ∃ t u v, (Instr.sendStop true 1 0x48 2 [3, 4]).wellFormed = true ∧
      exec (.sendStop true 1 0x48 2 [3, 4]) (fixing busy [] [] [.err] []) = .next t ∧
      t.responses = busy.responses ++ [⟨.busWriteError, 0, 0, []⟩] ∧
      (∀ i ∈ [Instr.recvStop 2, .sendStop false 1 0x48 0 []], ∀ bus addr len, i ≠ .sendStart bus addr len) ∧
      execAll [.recvStop 2, .sendStop false 1 0x48 0 []] t = .next u ∧
      exec (.sendStart 1 0x48 2) u = .next v ∧ v.txState = .assembling :=
  ⟨_, _, _, rfl, rfl, rfl, by simp, rfl, rfl, rfl⟩

theorem witness_SendSingleWritesOnce :
    ∃ e s1 s1' s2, (Instr.sendSingle 1 0x48 1 [0xAA]).wellFormed = true ∧
      connect 1 0x48 (fixing base [.err] [] [] []) = .raised e s1 ∧
      connect 1 0x48 (kind base) = .ok () s1' ∧ WritesWith [0xAA] (.count 1) s1' s2 :=
  ⟨_, _, _, _, rfl, rfl, rfl, .inr ⟨1, rfl, rfl⟩, rfl⟩

theorem witness_WakeWritesZeroThenDelays :
    (∃ e s1, connect 1 0x48 (fixing base [.ok ()] [.err] [] []) = .raised e s1) ∧
      (∃ s1 s2, connect 1 0x48 (kind base) = .ok () s1 ∧ WritesWith [0x00] (.count 1) s1 s2) ∧
      ∃ s1 s2, connect 1 0x48 (fixing opened [] [] [.ok 0] []) = .ok () s1 ∧ WritesWith [0x00] (.count 0) s1 s2 ∧
        Count.count 0 ≠ .count 1 :=
  ⟨⟨_, _, rfl⟩, ⟨_, _, rfl, .inr ⟨1, rfl, rfl⟩, rfl⟩, ⟨_, _, rfl, ⟨.inr ⟨0, rfl, rfl⟩, rfl⟩, by decide⟩⟩

theorem witness_DirectCommandsIgnoreFrames : ∃ t, exec (.recvSingle 1 0x48) (kind busy) = .next t := ⟨_, rfl⟩

/-- The capacity itself and one more, a failed handle, a full read and a short one. -/
theorem witness_RecvStartFillsFrame :
    base.params.rxCapacity < (756 : Half).toNat ∧ (755 : Half).toNat ≤ base.params.rxCapacity ∧
      (∃ e s1, connect 1 0x48 (fixing base [.err] [] [] []) = .raised e s1) ∧
      (∃ s1 s2, connect 1 0x48 (kind base) = .ok () s1 ∧ ReadsFull (1 : Half).toNat s1 [0x90] s2) ∧
      ∃ s1 s2, connect 1 0x48 (kind base) = .ok () s1 ∧ ReadsShort (2 : Half).toNat s1 s2 :=
  ⟨by decide, by decide, ⟨_, _, rfl⟩, ⟨_, _, rfl, rfl, rfl, rfl⟩,
    ⟨_, _, rfl, .count 1, [0x90], by decide, .inr ⟨rfl, rfl⟩, rfl⟩⟩

theorem witness_FailedRecvStartKeepsControlState :
    (∃ t, exec (.recvStart 1 0x48 2) (fixing busy [] [] [] [.err]) = .next t ∧
      t.responses = busy.responses ++ [⟨.busAckError, 0, 0, []⟩]) ∧
    ∃ t, exec (.recvStart 1 0x48 756) busy = .next t ∧ t.responses = busy.responses ++ [⟨.bufferOverflow, 0, 0, []⟩] :=
  ⟨⟨_, rfl, rfl⟩, ⟨_, rfl, rfl⟩⟩

theorem witness_RecvContinueReturnsNextBytes :
    base.rxState ≠ .filled ∧ (busy.rxState = .filled ∧ busy.rxOff.toNat ≤ busy.rxLen.toNat ∧
      busy.rxLen.toNat - busy.rxOff.toNat < (3 : Half).toNat) ∧
      (busy.rxOff.toNat + (2 : Half).toNat ≤ busy.rxLen.toNat ∧ busy.rxLen.toNat ≤ busy.params.rxCapacity ∧
        ([0xB2, 0xC3] : List Byte).length = (2 : Half).toNat ∧ Holds busy.rxb busy.rxOff.toNat [0xB2, 0xC3]) := by
  decide

theorem witness_RecvStopEndsFrame :
    base.rxState ≠ .filled ∧ (busy.rxState = .filled ∧ busy.rxOff.toNat ≤ busy.rxLen.toNat ∧
      busy.rxLen.toNat - busy.rxOff.toNat < (3 : Half).toNat) ∧
      (busy.rxOff.toNat + (0 : Half).toNat ≤ busy.rxLen.toNat ∧ busy.rxLen.toNat ≤ busy.params.rxCapacity ∧
        ([] : List Byte).length = (0 : Half).toNat ∧ Holds busy.rxb busy.rxOff.toNat []) := by decide

theorem witness_OnlyRecvStopLeavesFilled :
    (∃ t, exec (.recvStop 2) busy = .next t ∧ busy.rxState = .filled ∧ t.rxState = .idle) ∧
      (∃ t, exec (.recvContinue 2) busy = .next t) ∧ busy.rxOff.toNat ≤ busy.rxLen.toNat :=
  ⟨⟨_, rfl, rfl, rfl⟩, ⟨_, rfl⟩, by decide⟩

/-- A failed handle; and after a handle that succeeds each read short or full, with a payload of one byte. -/
theorem witness_RecvSingleReadsRecord :
    (∃ e s1, connect 1 0x48 (fixing base [.err] [] [] []) = .raised e s1) ∧
      (∃ s1 s2, connect 1 0x48 (fixing opened [] [] [] [.err]) = .ok () s1 ∧ ReadsShort 1 s1 s2) ∧
      (∃ s1 s2 s3, connect 1 0x48 (fixing opened [] [] [] [.ok [0x90], .ok []]) = .ok () s1 ∧
        ReadsFull 1 s1 [0x90] s2 ∧ ReadsShort 2 s2 s3) ∧
      (∃ s1 s2 s3, connect 1 0x48 (fixing opened [] [] [] [.ok [0x90], .ok [2, 0xF4]]) = .ok () s1 ∧
        ReadsFull 1 s1 [0x90] s2 ∧ ReadsFull 2 s2 [2, 0xF4] s3 ∧
        opened.params.rsMaxPayload < (2 : Byte).toNat * 256 + (0xF4 : Byte).toNat) ∧
      (∃ s1 s2 s3 s4, connect 1 0x48 (fixing opened [] [] [] [.ok [0x90], .ok [2, 0xF3], .err]) = .ok () s1 ∧
        ReadsFull 1 s1 [0x90] s2 ∧ ReadsFull 2 s2 [2, 0xF3] s3 ∧
        (2 : Byte).toNat * 256 + (0xF3 : Byte).toNat ≤ opened.params.rsMaxPayload ∧
        ReadsShort ((2 : Byte).toNat * 256 + (0xF3 : Byte).toNat) s3 s4) ∧
      ∃ s1 s2 s3 s4, connect 1 0x48 (kind base) = .ok () s1 ∧ ReadsFull 1 s1 [0x90] s2 ∧ ReadsFull 2 s2 [0, 1] s3 ∧
        ReadsFull ((0 : Byte).toNat * 256 + (1 : Byte).toNat) s3 [0x77] s4 :=
  ⟨⟨_, _, rfl⟩, ⟨_, _, rfl, .err, [], by decide, .inl ⟨rfl, rfl, rfl⟩, rfl⟩,
    ⟨_, _, _, rfl, ⟨rfl, rfl, rfl⟩, .count 0, [], by decide, .inr ⟨rfl, rfl⟩, rfl⟩,
    ⟨_, _, _, rfl, ⟨rfl, rfl, rfl⟩, ⟨rfl, rfl, rfl⟩, by decide⟩,
    ⟨_, _, _, _, rfl, ⟨rfl, rfl, rfl⟩, ⟨rfl, rfl, rfl⟩, by decide, .err, [], by decide, .inl ⟨rfl, rfl, rfl⟩, rfl⟩,
    ⟨_, _, _, _, rfl, ⟨rfl, rfl, rfl⟩, ⟨rfl, rfl, rfl⟩, rfl, rfl, rfl⟩⟩

/-- V-SRC-3 at k = 5, with a receive command between. -/
theorem witness_SplitCrcIsWholeCrc :
    ∃ t, (∀ i ∈ [Instr.recvStop 2, .crcAccumulate 1 [0x36]], ∀ k e, i ≠ .crcCalculate k e) ∧
      execAll (.crcCalculate 5 [0x31, 0x32, 0x33, 0x34, 0x35] :: [.recvStop 2, .crcAccumulate 1 [0x36]] ++
        [.crcAccumulate 3 [0x37, 0x38, 0x39]]) busy = .next t ∧ t.crcReg = 0x6F91 :=
  ⟨_, by simp, rfl, by decide⟩

/-- V-CRC-29: the complemented CRC of `[01 02 03]`. -/
theorem witness_CrcResidueIsConstant : (0x9D3B : Half) = ~~~ foldAll 0xFFFF [1, 2, 3] := by decide

theorem witness_ResponseFieldsSet : ∃ t, exec (.recvSingle 1 0x48) (kind opened) = .next t ∧
    t.responses = opened.responses ++ [⟨.ok, 1, 0x90, [0x77]⟩] := ⟨_, rfl, rfl⟩

theorem witness_StatusesOfEachCommand : ∃ t r, exec (.sendStop true 1 0x48 3 [3, 4, 5]) busy = .next t ∧
    t.responses = busy.responses ++ [r] := ⟨_, _, rfl, rfl⟩

theorem witness_FailuresKeepOnlyListedWrites :
    (∃ t, exec (.sendStop true 1 0x48 3 [3, 4, 5]) busy = .next t ∧
      t.responses = busy.responses ++ [⟨.bufferOverflow, 0, 0, []⟩]) ∧
    (∃ t, exec (.recvContinue 3) busy = .next t ∧ t.responses = busy.responses ++ [⟨.bufferUnderflow, 0, 0, []⟩]) ∧
    ∃ t, exec (.recvStart 1 0x48 2) (fixing busy [] [] [] [.err]) = .next t ∧
      t.responses = busy.responses ++ [⟨.busAckError, 0, 0, []⟩] :=
  ⟨⟨_, rfl, rfl⟩, ⟨_, rfl, rfl⟩, ⟨_, rfl, rfl⟩⟩

theorem witness_TransmitTransitions :
    (∃ t r, exec (.sendContinue true 1 []) base = .next t ∧ t.responses = base.responses ++ [r] ∧
      base.txState = .idle) ∧
    (∃ t r, exec (.sendContinue true 3 []) busy = .next t ∧ t.responses = busy.responses ++ [r] ∧
      busy.txState = .assembling) ∧
    ∃ t r, exec (.sendStop true 1 0x48 3 [3, 4, 5]) busy = .next t ∧ t.responses = busy.responses ++ [r] :=
  ⟨⟨_, _, rfl, rfl, rfl⟩, ⟨_, _, rfl, rfl, rfl⟩, ⟨_, _, rfl, rfl⟩⟩

theorem witness_ReceiveTransitions :
    (∃ t r, exec (.recvStop 0) base = .next t ∧ t.responses = base.responses ++ [r] ∧ base.rxState = .idle) ∧
    ∃ t r, exec (.recvContinue 3) busy = .next t ∧ t.responses = busy.responses ++ [r] ∧ busy.rxState = .filled :=
  ⟨⟨_, _, rfl, rfl, rfl⟩, ⟨_, _, rfl, rfl, rfl⟩⟩

theorem witness_FrameOfRegisterCommands :
    (∃ t, exec (.sendStart 1 0x48 755) busy = .next t) ∧ (∃ t, exec (.recvContinue 2) busy = .next t) ∧
      (∃ t, exec (.recvStop 2) busy = .next t) ∧ (∃ t, exec (.crcCalculate 1 [1]) busy = .next t) ∧
      ∃ t, exec (.crcAccumulate 1 [1]) busy = .next t :=
  ⟨⟨_, rfl⟩, ⟨_, rfl⟩, ⟨_, rfl⟩, ⟨_, rfl⟩, ⟨_, rfl⟩⟩

theorem witness_FrameOfAppendingCommands :
    ((Instr.sendContinue false 2 [3, 4]).wellFormed = true ∧ ∃ t, exec (.sendContinue false 2 [3, 4]) busy = .next t) ∧
      (Instr.sendStop true 1 0x48 2 [3, 4]).wellFormed = true ∧
      ∃ t, exec (.sendStop true 1 0x48 2 [3, 4]) (fixing busy [] [] [.ok 4] []) = .next t :=
  ⟨⟨rfl, _, rfl⟩, rfl, _, rfl⟩

theorem witness_FrameOfBusCommands :
    (∃ t, exec (.sendSingle 1 0x48 1 [0xAA]) (kind busy) = .next t) ∧ (∃ t, exec (.wake 1 0x48) (kind busy) = .next t) ∧
      (∃ t, exec (.recvSingle 1 0x48) (kind busy) = .next t) ∧ ∃ t, exec (.recvStart 1 0x48 1) (kind busy) = .next t :=
  ⟨⟨_, rfl⟩, ⟨_, rfl⟩, ⟨_, rfl⟩, ⟨_, rfl⟩⟩

theorem witness_OffsetsStayInBounds :
    ∃ t, OffsetsInBounds busy ∧ step (busy.issue ⟨0x00000002, 2, [3, 4]⟩) = .next t :=
  ⟨_, by decide, rfl⟩

theorem witness_GoodStatesStayGood :
    ∃ t, GoodState (busy.issue ⟨0x00000002, 2, [3, 4]⟩) ∧ step (busy.issue ⟨0x00000002, 2, [3, 4]⟩) = .next t :=
  ⟨_, by decide, rfl⟩

/-- Both outcomes of the statement happen: a command that completes, and one that hangs. -/
theorem witness_OnlyUnansweredCallsStop :
    GoodState busy ∧ (∃ t, step (busy.issue ⟨0x00000007, 2, []⟩) = .next t) ∧
      ∃ u c, step ((fixing busy [] [] [.never] []).issue ⟨0x00480105, 0, []⟩) = .fault (.stuck u c) :=
  ⟨by decide, ⟨_, rfl⟩, ⟨_, _, rfl⟩⟩

/-- An open never answered; a set-address never answered after an open, and with the bus open already. -/
theorem witness_UnansweredCallHangs :
    (busFields (.recvStart 1 0x48 755) = some (1, 0x48) ∧ ¬ failsOwnChecks (.recvStart 1 0x48 755) base ∧
      (∀ p b a len din, Instr.recvStart 1 0x48 755 ≠ .sendStop p b a len din) ∧
      (∃ u c, HandleUnanswered 1 0x48 (fixing base [.never] [] [] []) u c) ∧
      ∃ u c, HandleUnanswered 1 0x48 (fixing base [.ok ()] [.never] [] []) u c) ∧
    ((Instr.sendStop true 1 0x50 2 [3, 4]).wellFormed = true ∧ busy.txState = .assembling ∧
      busy.txOff.toNat + (2 : Half).toNat ≤ busy.txLen.toNat ∧ busy.txLen.toNat ≤ busy.params.txCapacity ∧
      ([1, 2] : List Byte).length = busy.txOff.toNat ∧ Holds busy.txb 0 [1, 2] ∧
      (∃ u c, HandleUnanswered 1 0x50 (fixing busy [] [.never] [] []) u c) ∧
      ∃ s1, connect 1 0x48 (fixing busy [] [] [.never] []) = .ok () s1 ∧
        writeReply ([1, 2] ++ (if true then [3, 4] else [])) s1 = .never) ∧
    (∃ s1, connect 1 0x48 (fixing opened [] [] [.never] [.never]) = .ok () s1 ∧ writeReply [0x00] s1 = .never ∧
      readReply 1 s1 = .never) ∧
    (∃ s1 s2, connect 1 0x48 (fixing opened [] [] [] [.ok [0x90], .never]) = .ok () s1 ∧ ReadsFull 1 s1 [0x90] s2 ∧
      readReply 2 s2 = .never) ∧
    ∃ s1 s2 s3, connect 1 0x48 (fixing opened [] [] [] [.ok [0x90], .ok [2, 0xF3], .never]) = .ok () s1 ∧
      ReadsFull 1 s1 [0x90] s2 ∧ ReadsFull 2 s2 [2, 0xF3] s3 ∧
      (2 : Byte).toNat * 256 + (0xF3 : Byte).toNat ≤ opened.params.rsMaxPayload ∧
      readReply ((2 : Byte).toNat * 256 + (0xF3 : Byte).toNat) s3 = .never :=
  ⟨⟨rfl, by simp [failsOwnChecks, base, State.reset, Config.defaultParams], nofun,
      ⟨_, _, .inl ⟨rfl, rfl, rfl, rfl⟩⟩, ⟨_, _, .inr ⟨.inr rfl, by decide, rfl, rfl, rfl⟩⟩⟩,
    ⟨rfl, rfl, by decide, by decide, by decide, by decide, ⟨_, _, .inr ⟨.inl rfl, by decide, rfl, rfl, rfl⟩⟩,
      ⟨_, rfl, rfl⟩⟩,
    ⟨_, rfl, rfl, rfl⟩, ⟨_, _, rfl, ⟨rfl, rfl, rfl⟩, rfl⟩,
    ⟨_, _, _, rfl, ⟨rfl, rfl, rfl⟩, ⟨rfl, rfl, rfl⟩, by decide, rfl⟩⟩

theorem witness_TransactionsOfSuccess :
    ∃ t r, exec (.wake 1 0x48) (kind base) = .next t ∧ t.responses = base.responses ++ [r] ∧ r.status = .ok :=
  ⟨_, _, rfl, rfl, rfl⟩

theorem witness_NothingIsTakenBack : ∃ t, step ((kind opened).issue ⟨0x00480105, 0, []⟩) = .next t ∧
    opened.busOpen = true := ⟨_, rfl, rfl⟩

/-- Two states that differ in an unspecified register and in `CRC_REG`. -/
theorem witness_UnspecifiedValuesAreInvisible :
    GoodState base ∧ GoodState { base with crcReg := 0, txLen := 9, rxOff := 7, curAddr := 3 } ∧
      Indistinguishable base { base with crcReg := 0, txLen := 9, rxOff := 7, curAddr := 3 } ∧
      (Instr.crcCalculate 1 [1]).wellFormed = true ∧ ∀ l d, Instr.crcCalculate 1 [1] ≠ .crcAccumulate l d :=
  ⟨by decide, by decide, ⟨rfl, rfl, rfl, rfl, rfl, rfl, rfl, nofun, rfl, nofun, rfl, nofun⟩, rfl, nofun⟩

/-- V-SRC-4, with a SEND_CONTINUE and a CRC_CALCULATE between SEND_START and SEND_STOP. -/
theorem witness_OneWritePerFrame :
    ∃ t, (∀ i ∈ [Instr.sendContinue false 3 [1, 2, 3], .crcCalculate 1 [7]],
        i.wellFormed = true ∧ betweenTransmit i = true) ∧ (Instr.sendStop true 1 0x48 2 [4, 5]).wellFormed = true ∧
      execAll
        (.sendStart 1 0x48 5 :: [.sendContinue false 3 [1, 2, 3], .crcCalculate 1 [7]] ++ [.sendStop true 1 0x48 2 [4, 5]])
        (fixing opened [] [] [.ok 5] []) = .next t ∧
      t.responses = opened.responses ++
        [⟨.ok, 0, 0, []⟩, ⟨.ok, 0, 0, []⟩, ⟨.ok, ~~~ foldAll 0xFFFF [7], 0, []⟩, ⟨.ok, 0, 0, []⟩] ∧
      (∀ r ∈ [(⟨.ok, 0, 0, []⟩ : Response), ⟨.ok, 0, 0, []⟩, ⟨.ok, ~~~ foldAll 0xFFFF [7], 0, []⟩, ⟨.ok, 0, 0, []⟩],
        r.status = .ok) ∧
      (5 : Half).toNat = (([Instr.sendContinue false 3 [1, 2, 3], .crcCalculate 1 [7]] ++
        [Instr.sendStop true 1 0x48 2 [4, 5]]).flatMap chunkOf).length :=
  ⟨_, by decide, rfl, rfl, rfl, by simp, rfl⟩

/-- V-SRC-5. -/
theorem witness_FrameReadBackInOrder :
    ∃ u t, exec (.recvStart 1 0x48 4) (fixing opened [] [] [] [.ok [0xA0, 0xA1, 0xA2, 0xA3]]) = .next u ∧
      u.responses = opened.responses ++ [⟨.ok, 0, 0, []⟩] ∧
      u.trace = opened.trace ++ [] ++ [.evRead (4 : Half).toNat (.count (4 : Half).toNat) [0xA0, 0xA1, 0xA2, 0xA3]] ∧
      (∀ i ∈ [Instr.recvContinue 1, .recvContinue 2], betweenReceive i = true) ∧
      (4 : Half).toNat = (([Instr.recvContinue 1, .recvContinue 2] ++ [Instr.recvStop 1]).map takenOf).sum ∧
      execAll ([.recvContinue 1, .recvContinue 2] ++ [.recvStop 1]) u = .next t :=
  ⟨_, _, rfl, rfl, rfl, by decide, rfl, rfl⟩

theorem witness_SendFrameSendsData :
    ∃ forms cmds s1 s2, (Pseudo.sendFrame 1 0x48 [3, 4]).expand = some forms ∧ assembleAll forms = some cmds ∧
      ([3, 4] : List Byte).length ≤ base.params.txCapacity ∧
      connect 1 0x48 (fixing opened [] [] [.ok 2] []) = .ok () s1 ∧ WritesWith [3, 4] (.count 2) s1 s2 :=
  ⟨_, _, _, _, rfl, rfl, by decide, rfl, .inr ⟨2, rfl, rfl⟩, rfl⟩

theorem witness_SendStopOutsideAssembling : base.txState ≠ .assembling := by decide

/-- A refused open; a refused set-address after an open; and a handle that opens and addresses. -/
theorem witness_BusHandleOutcomes :
    (base.busOpen = false ∧ openReply 1 (fixing base [.err] [] [] []) = .err) ∧
      (Opens 1 (fixing base [.ok ()] [.err] [] []) ∧ ¬ AddressCached 0x48 base ∧
        setAddrReply 0x48 (afterOpen 1 (fixing base [.ok ()] [.err] [] [])) = .err) ∧
      connect 1 0x48 (fixing base [.ok ()] [.ok ()] [] []) =
        .ok () (afterSetAddr 0x48 (afterOpen 1 (fixing base [.ok ()] [.ok ()] [] []))) :=
  ⟨⟨rfl, rfl⟩, ⟨.inr rfl, by decide, rfl⟩, rfl⟩

end Sys2Proof.Tests
end

/-! PROOF. What one step can do, said once: a command changes its frame registers and buffer in one of the ways listed by
`FrameEffect`, uses the bus as `BusProgress` allows, and appends one response. Every claim of the state family about all
commands is derived from that. -/

namespace Sys2Proof.Machine

open Sys2Proof.Safety

/-! ## Bus use -/

/-- What any number of bus calls may do: touch only the bus fields, never close the bus, validate an address only with
the bus open, and append to the trace. -/
structure BusProgress (s t : State) : Prop where
  onlyBus : OnlyBus s t
  staysOpen : s.busOpen = true → t.busOpen = true
  cachedWhileOpen : t.curAddrValid = true → t.busOpen = true ∨ s.curAddrValid = true
  traceGrows : s.trace <+: t.trace

theorem BusProgress.refl (s : State) : BusProgress s s := ⟨.refl s, id, .inr, List.prefix_rfl⟩

theorem BusProgress.trans {s t u : State} (h : BusProgress s t) (h' : BusProgress t u) : BusProgress s u where
  onlyBus := h.onlyBus.trans h'.onlyBus
  staysOpen hs := h'.staysOpen (h.staysOpen hs)
  cachedWhileOpen hu := by
    rcases h'.cachedWhileOpen hu with ho | hc
    · exact .inl ho
    · exact (h.cachedWhileOpen hc).imp_left h'.staysOpen
  traceGrows := h.traceGrows.trans h'.traceGrows

theorem busProgress_record (s : State) (e : Event) : BusProgress s (s.record e) :=
  ⟨rfl, id, .inr, List.prefix_append _ _⟩

theorem busProgress_wrote (s : State) (e : Event) : BusProgress s (s.tookWrite.record e) :=
  ⟨rfl, id, .inr, List.prefix_append _ _⟩

theorem busProgress_didRead (s : State) (len : Nat) (c : Count) (d : List Byte) : BusProgress s (s.didRead len c d) :=
  ⟨rfl, id, .inr, List.prefix_append _ _⟩

theorem BusProgress.of_connect_ok {bus addr : Byte} {s t : State} {u : Unit} (h : connect bus addr s = .ok u t) :
    BusProgress s t := by
  obtain ⟨hb, htr, hopen, -, -⟩ := connect_eq_ok h
  exact ⟨hb, fun _ => hopen, fun _ => .inl hopen, ⟨_, htr.symm⟩⟩

theorem BusProgress.of_connect_raised {bus addr : Byte} {e : Status} {s t : State}
    (h : connect bus addr s = .raised e t) : BusProgress s t := by
  obtain ⟨hb, ⟨evs, -, htr⟩, -, hopen, hvalid, -⟩ := connect_eq_raised h
  exact ⟨hb, hopen, fun ht => .inr (hvalid ht), ⟨evs, htr.symm⟩⟩

/-- A change of state that neither reads nor writes the bus fields. -/
def LeavesBus (f : State → State) : Prop := ∀ u s, f (graft u s) = graft (f u) s

/-- After bus calls, such a change gives what it gave before them, with the new bus fields. -/
theorem LeavesBus.of_onlyBus {f : State → State} (hf : LeavesBus f) {s t : State} (h : OnlyBus s t) :
    f t = graft (f s) t := by
  have ht : t = graft s t := h
  rw [← hf s t, ← ht]

/-- A change that leaves the bus commutes with bus use. -/
theorem BusProgress.map {f : State → State} (hf : LeavesBus f) {s t : State} (h : BusProgress s t) :
    BusProgress (f s) (f t) := by
  rw [hf.of_onlyBus h.onlyBus, hf.of_onlyBus (OnlyBus.refl s)]
  exact ⟨rfl, h.staysOpen, h.cachedWhileOpen, h.traceGrows⟩

/-! ## The frame part of a command -/

/-- How a command may change the registers and buffers that are not the bus's. Every command may change nothing, as it
does when it raises an error before any write. -/
inductive FrameEffect : Instr → State → State → Prop where
  | unchanged (i : Instr) (s : State) : FrameEffect i s s
  | start {bus addr : Byte} {len : Half} {s : State} (hlen : len.toNat ≤ s.params.txCapacity) :
      FrameEffect (.sendStart bus addr len) s (startAssembling len s)
  | append {z : Bool} {len : Half} {din : List Byte} {s : State}
      (ha : s.txState = .assembling) (hfit : s.txOff.toNat + len.toNat ≤ s.txLen.toNat)
      (hcells : s.hasCells .tx s.txOff.toNat (continueBytes z len din).length) :
      FrameEffect (.sendContinue z len din) s (s.appended len (continueBytes z len din))
  | close {p : Bool} {bus addr : Byte} {len : Half} {din : List Byte} {s : State} (ha : s.txState = .assembling) :
      FrameEffect (.sendStop p bus addr len din) s (endAssembling s)
  | appendAndClose {bus addr : Byte} {len : Half} {din : List Byte} {s : State}
      (ha : s.txState = .assembling) (hfit : s.txOff.toNat + len.toNat ≤ s.txLen.toNat)
      (hcells : s.hasCells .tx s.txOff.toNat din.length) :
      FrameEffect (.sendStop true bus addr len din) s ((endAssembling s).appended len din)
  | fill {bus addr : Byte} {len : Half} {s : State} (d : List Byte) (hd : d.length = len.toNat)
      (hlen : len.toNat ≤ s.params.rxCapacity) :
      FrameEffect (.recvStart bus addr len) s (startFilled len (s.withCells .rx (s.rxb.writeBytes 0 d)))
  | spoil {bus addr : Byte} {len : Half} {s : State} (d : List Byte) (hd : d.length = len.toNat)
      (hlen : len.toNat ≤ s.params.rxCapacity) :
      FrameEffect (.recvStart bus addr len) s (s.withCells .rx (s.rxb.writeBytes 0 d))
  | take {len : Half} {s : State} (hf : s.rxState = .filled)
      (hfit : s.rxOff.toNat + len.toNat ≤ s.rxLen.toNat) :
      FrameEffect (.recvContinue len) s { s with rxOff := s.rxOff + len }
  | release {len : Half} {s : State} (hf : s.rxState = .filled)
      (hfit : s.rxOff.toNat + len.toNat ≤ s.rxLen.toNat) : FrameEffect (.recvStop len) s (endFilled s)
  | calculate {len : Half} {din : List Byte} {s : State} :
      FrameEffect (.crcCalculate len din) s { s with crcReg := foldAll Config.crcInit din }
  | accumulate {len : Half} {din : List Byte} {s : State} :
      FrameEffect (.crcAccumulate len din) s { s with crcReg := foldAll s.crcReg din }

/-- `t` is `s` after a frame effect of `i`, bus calls, and a response. -/
def Completes (i : Instr) (s t : State) : Prop :=
  ∃ u v r, FrameEffect i s u ∧ BusProgress u v ∧ t = v.respond r

/-- A command that uses no bus call. -/
theorem FrameEffect.completes {i : Instr} {s u : State} (h : FrameEffect i s u) (r : Response) :
    Completes i s (u.respond r) := ⟨u, u, r, h, .refl u, rfl⟩

/-- A command that ends after bus calls with no frame effect. -/
theorem BusProgress.completes {s v : State} (h : BusProgress s v) (i : Instr) (r : Response) :
    Completes i s (v.respond r) := ⟨s, v, r, .unchanged i s, h, rfl⟩

theorem execSendStart_completes {bus addr : Byte} {len : Half} {s t : State}
    (h : execSendStart bus addr len s = .next t) : Completes (.sendStart bus addr len) s t := by
  rcases execSendStart_next h with ⟨-, rfl⟩ | ⟨hlen, rfl⟩
  · exact (FrameEffect.unchanged _ s).completes _
  · exact (FrameEffect.start hlen).completes _

theorem execSendContinue_completes {z : Bool} {len : Half} {din : List Byte} {s t : State}
    (h : execSendContinue z len din s = .next t) : Completes (.sendContinue z len din) s t := by
  rcases execSendContinue_next h with ⟨-, rfl⟩ | ⟨-, -, rfl⟩ | ⟨ha, hfit, hcells, rfl⟩
  · exact (FrameEffect.unchanged _ s).completes _
  · exact (FrameEffect.unchanged _ s).completes _
  · exact (FrameEffect.append ha hfit hcells).completes _

/-- The frame effect of a SEND_STOP that reaches the bus handle. -/
theorem FrameEffect.closed {p : Bool} {bus addr : Byte} {len : Half} {din : List Byte} {s : State}
    (ha : s.txState = .assembling)
    (hfit : p = true → s.txOff.toNat + len.toNat ≤ s.txLen.toNat ∧ s.hasCells .tx s.txOff.toNat din.length) :
    FrameEffect (.sendStop p bus addr len din) s (s.closed p len din) := by
  cases p with
  | false => exact .close ha
  | true => exact .appendAndClose ha (hfit rfl).1 (hfit rfl).2

theorem execSendStop_completes {p : Bool} {bus addr : Byte} {len : Half} {din : List Byte} {s t : State}
    (h : execSendStop p bus addr len din s = .next t) : Completes (.sendStop p bus addr len din) s t := by
  rcases execSendStop_next h with
    ⟨-, rfl⟩ | ⟨ha, -, -, rfl⟩ | ⟨ha, hp, ⟨e, v, hcon, rfl⟩ | ⟨v, bs, c, hcon, -, rfl⟩⟩
  · exact (FrameEffect.unchanged _ s).completes _
  · exact (FrameEffect.close ha).completes _
  · exact ⟨_, v, _, .closed ha hp, .of_connect_raised hcon, rfl⟩
  · exact ⟨_, _, _, .closed ha hp, (BusProgress.of_connect_ok hcon).trans (busProgress_wrote v _), rfl⟩

theorem execSendSingle_completes {bus addr : Byte} {len : Half} {din : List Byte} {s t : State}
    (h : execSendSingle bus addr len din s = .next t) : Completes (.sendSingle bus addr len din) s t := by
  rcases execSendSingle_next h with ⟨e, v, hcon, rfl⟩ | ⟨v, c, hcon, rfl⟩
  · exact (BusProgress.of_connect_raised hcon).completes _ _
  · exact ((BusProgress.of_connect_ok hcon).trans (busProgress_wrote v _)).completes _ _

theorem execWake_completes {bus addr : Byte} {s t : State} (h : execWake bus addr s = .next t) :
    Completes (.wake bus addr) s t := by
  rcases execWake_next h with ⟨e, v, hcon, rfl⟩ | ⟨v, hcon, ⟨c, -, rfl⟩ | rfl⟩
  · exact (BusProgress.of_connect_raised hcon).completes _ _
  · exact ((BusProgress.of_connect_ok hcon).trans (busProgress_wrote v _)).completes _ _
  · exact (((BusProgress.of_connect_ok hcon).trans (busProgress_wrote v _)).trans
      (busProgress_record _ _)).completes _ _

/-- RECV_START stores after its bus calls; its frame effect on the state before them commutes with them. -/
theorem execRecvStart_completes {bus addr : Byte} {len : Half} {s t : State}
    (h : execRecvStart bus addr len s = .next t) : Completes (.recvStart bus addr len) s t := by
  rcases execRecvStart_next h with
    ⟨-, rfl⟩ | ⟨hlen, ⟨e, v, hcon, rfl⟩ | ⟨v, hcon, ⟨d, hd, rfl⟩ | ⟨c, d, b, -, hb, rfl⟩⟩⟩
  · exact (FrameEffect.unchanged _ s).completes _
  · exact (BusProgress.of_connect_raised hcon).completes _ _
  · have hbus := (BusProgress.of_connect_ok hcon).trans (busProgress_didRead v len.toNat (.count len.toNat) d)
    exact ⟨_, _, _, .fill d hd hlen,
      hbus.map (f := fun s => startFilled len (s.withCells .rx (s.rxb.writeBytes 0 d))) fun _ _ => rfl, rfl⟩
  · have hbus := (BusProgress.of_connect_ok hcon).trans (busProgress_didRead v len.toNat c d)
    exact ⟨_, _, _, .spoil b hb hlen,
      hbus.map (f := fun s => s.withCells .rx (s.rxb.writeBytes 0 b)) fun _ _ => rfl, rfl⟩

theorem execRecvContinue_completes {len : Half} {s t : State} (h : execRecvContinue len s = .next t) :
    Completes (.recvContinue len) s t := by
  rcases execRecvContinue_next h with ⟨-, rfl⟩ | ⟨-, -, rfl⟩ | ⟨hf, hfit, d, -, rfl⟩
  · exact (FrameEffect.unchanged _ s).completes _
  · exact (FrameEffect.unchanged _ s).completes _
  · exact (FrameEffect.take hf hfit).completes _

theorem execRecvStop_completes {len : Half} {s t : State} (h : execRecvStop len s = .next t) :
    Completes (.recvStop len) s t := by
  rcases execRecvStop_next h with ⟨-, rfl⟩ | ⟨-, -, rfl⟩ | ⟨hf, hfit, d, -, rfl⟩
  · exact (FrameEffect.unchanged _ s).completes _
  · exact (FrameEffect.unchanged _ s).completes _
  · exact (FrameEffect.release hf hfit).completes _

theorem execRecvSingle_completes {bus addr : Byte} {s t : State} (h : execRecvSingle bus addr s = .next t) :
    Completes (.recvSingle bus addr) s t := by
  rcases execRecvSingle_next h with ⟨e, v, hcon, rfl⟩ | ⟨v, hcon, h⟩
  · exact (BusProgress.of_connect_raised hcon).completes _ _
  have hv := BusProgress.of_connect_ok hcon
  rcases h with ⟨c, d, -, rfl⟩ | ⟨h1, -, h⟩
  · exact (hv.trans (busProgress_didRead _ _ _ _)).completes _ _
  have hv1 := hv.trans (busProgress_didRead v 1 (.count 1) h1)
  rcases h with ⟨c, d, -, rfl⟩ | ⟨b, -, h⟩
  · exact (hv1.trans (busProgress_didRead _ _ _ _)).completes _ _
  have hv2 := hv1.trans (busProgress_didRead _ 2 (.count 2) b)
  rcases h with ⟨-, rfl⟩ | ⟨-, ⟨c, d, -, rfl⟩ | ⟨p, -, rfl⟩⟩
  · exact hv2.completes _ _
  · exact (hv2.trans (busProgress_didRead _ _ _ _)).completes _ _
  · exact (hv2.trans (busProgress_didRead _ _ _ _)).completes _ _

/-- Every command that answers a next state has a frame effect, uses the bus, and responds. -/
theorem exec_completes {i : Instr} {s t : State} (h : exec i s = .next t) : Completes i s t := by
  cases i with
  | sendStart bus addr len => exact execSendStart_completes h
  | sendContinue z len din => exact execSendContinue_completes h
  | sendStop p bus addr len din => exact execSendStop_completes h
  | sendSingle bus addr len din => exact execSendSingle_completes h
  | wake bus addr => exact execWake_completes h
  | recvStart bus addr len => exact execRecvStart_completes h
  | recvContinue len => exact execRecvContinue_completes h
  | recvStop len => exact execRecvStop_completes h
  | recvSingle bus addr => exact execRecvSingle_completes h
  | crcCalculate len din =>
    cases h
    exact FrameEffect.calculate.completes _
  | crcAccumulate len din =>
    cases h
    exact FrameEffect.accumulate.completes _

/-! ## One step -/

/-- A command that decodes carries data of the length its command takes (30_encoding.md R83). -/
theorem wellFormed_of_decode {c : Command} {i : Instr} (h : decode c = .ok i) : i.wellFormed = true := by
  obtain ⟨op, -, -, -, -, hstop, hdin, rfl⟩ := (decode_eq_ok_iff c i).mp h
  cases op with
  | sendContinue =>
    cases hz : zField c.cmd <;>
      simpa [assembleOperands, Instr.wellFormed, dinFills, dinExpected, hz] using hdin
  | sendStop =>
    cases hp : pField c.cmd with
    | true => simpa [assembleOperands, Instr.wellFormed, dinFills, dinExpected, hp] using hdin
    | false => simpa [assembleOperands, Instr.wellFormed, dinExpected, hp, hstop rfl hp] using hdin
  | sendSingle | crcCalculate | crcAccumulate =>
    simpa [assembleOperands, Instr.wellFormed, dinFills, dinExpected] using hdin
  | sendStart | wake | recvStart | recvContinue | recvStop | recvSingle => rfl

/-- What a step does: nothing, or it takes the next command and completes or rejects it. -/
theorem step_next {s t : State} (h : step s = .next t) :
    t = s ∨ ∃ c cs, s.pending = c :: cs ∧
      ((∃ i, i.wellFormed = true ∧ Completes i { s with pending := cs } t) ∨
        t = rejectCommand { s with pending := cs }) := by
  unfold step takeCommand at h
  cases hp : s.pending with
  | nil => rw [hp] at h; cases h; exact .inl rfl
  | cons c cs =>
    rw [hp] at h
    refine .inr ⟨c, cs, rfl, ?_⟩
    cases hd : decode c with
    | error e => simp only [hd] at h; cases h; exact .inr rfl
    | ok i => simp only [hd] at h; exact .inl ⟨i, wellFormed_of_decode hd, exec_completes h⟩

/-- A property of states that taking a command, every frame effect, bus use and responding keep is kept by every
step. -/
theorem step_keeps {P : State → Prop} (take : ∀ s cs, P s → P { s with pending := cs })
    (effect : ∀ i s u, i.wellFormed = true → FrameEffect i s u → P s → P u)
    (bus : ∀ s u, BusProgress s u → P s → P u) (respond : ∀ s r, P s → P (s.respond r))
    {s t : State} (hs : P s) (h : step s = .next t) : P t := by
  rcases step_next h with rfl | ⟨c, cs, -, ⟨i, hwf, u, v, r, hu, hv, rfl⟩ | rfl⟩
  · exact hs
  · exact respond v r (bus u v hv (effect i _ u hwf hu (take s cs hs)))
  · exact respond _ _ (take s cs hs)

end Sys2Proof.Machine

/-! PROOF. What every step keeps (10_state.md R31, R35, R40; 20_memory.md R50, R61; 40_bus_handle.md R115): each part of
the invariant through the frame effects and through bus use. -/

namespace Sys2Proof.Machine

open Sys2Proof.Safety

/-! ## Bus use keeps every part that does not speak of the bus -/

theorem OnlyBus.offsetsInBounds {s t : State} (h : OnlyBus s t) (hs : OffsetsInBounds s) : OffsetsInBounds t := by
  rw [h]; exact hs

theorem OnlyBus.buffersCanonical {s t : State} (h : OnlyBus s t) (hs : BuffersCanonical s) : BuffersCanonical t := by
  rw [h]; exact hs

theorem OnlyBus.framesWritten {s t : State} (h : OnlyBus s t) (hs : FramesWritten s) : FramesWritten t := by
  rw [h]; exact hs

/-! ## What a frame effect leaves -/

theorem FrameEffect.params {i : Instr} {s u : State} (h : FrameEffect i s u) : u.params = s.params := by
  cases h <;> rfl

theorem FrameEffect.busOpen {i : Instr} {s u : State} (h : FrameEffect i s u) : u.busOpen = s.busOpen := by
  cases h <;> rfl

theorem FrameEffect.curAddrValid {i : Instr} {s u : State} (h : FrameEffect i s u) :
    u.curAddrValid = s.curAddrValid := by
  cases h <;> rfl

theorem FrameEffect.trace {i : Instr} {s u : State} (h : FrameEffect i s u) : u.trace = s.trace := by
  cases h <;> rfl

theorem FrameEffect.responses {i : Instr} {s u : State} (h : FrameEffect i s u) : u.responses = s.responses := by
  cases h <;> rfl

/-! ## R35 -/

/-- Every frame effect keeps R35: a new frame starts at offset 0 within its space, and an offset moves only as far as the
length allows. -/
theorem FrameEffect.offsetsInBounds {i : Instr} {s u : State} (h : FrameEffect i s u) (hs : OffsetsInBounds s) :
    OffsetsInBounds u := by
  obtain ⟨htx, hrx⟩ := hs
  cases h with
  | unchanged => exact ⟨htx, hrx⟩
  | start hlen => exact ⟨fun _ => ⟨Nat.zero_le _, hlen⟩, hrx⟩
  | append _ hfit _ => exact ⟨fun ha => ⟨(toNat_add_of_le hfit).trans_le hfit, (htx ha).2⟩, hrx⟩
  | close _ => exact ⟨nofun, hrx⟩
  | appendAndClose _ _ _ => exact ⟨nofun, hrx⟩
  | fill d _ hlen => exact ⟨htx, fun _ => ⟨Nat.zero_le _, hlen⟩⟩
  | spoil d _ _ => exact ⟨htx, hrx⟩
  | take _ hfit => exact ⟨htx, fun hf => ⟨(toNat_add_of_le hfit).trans_le hfit, (hrx hf).2⟩⟩
  | release _ _ => exact ⟨htx, nofun⟩
  | calculate => exact ⟨htx, hrx⟩
  | accumulate => exact ⟨htx, hrx⟩

/-- R35 holds at reset, where neither buffer is in use. -/
theorem reset_offsetsInBounds : OffsetsInBounds State.reset := ⟨nofun, nofun⟩

/-- Settles O47: R35 is kept by every frame effect, and bus use and responses do not touch the registers it names. -/
theorem offsetsStayInBounds : Obligations.OffsetsStayInBounds :=
  ⟨reset_offsetsInBounds, fun _ _ hs h =>
    step_keeps (P := OffsetsInBounds) (fun _ _ h => h) (fun _ _ _ _ hu => hu.offsetsInBounds)
      (fun _ _ hv => hv.onlyBus.offsetsInBounds) (fun _ _ h => h) hs h⟩

/-! ## Buffers -/

/-- Every frame effect keeps both buffers canonical and inside their spaces. -/
theorem FrameEffect.buffersCanonical {i : Instr} {s u : State} (h : FrameEffect i s u) (hs : BuffersCanonical s) :
    BuffersCanonical u := by
  cases h with
  | append _ _ hcells | appendAndClose _ _ hcells =>
    have hstored := memWrite_buffersCanonical (memWrite_ok hcells) hs
    exact hstored
  | fill d hd hlen | spoil d hd hlen =>
    have hcells : s.hasCells .rx 0 d.length := .inr (by simpa [hd] using hlen)
    have hstored := memWrite_buffersCanonical (memWrite_ok hcells) hs
    exact hstored
  | unchanged | start _ | close _ | take _ _ | release _ _ | calculate | accumulate => exact hs

/-- A store leaves written cells written. -/
theorem written_writeBytes {m : Memory} {n : Nat} (h : Written m n) (o : Nat) (bs : List Byte) :
    Written (m.writeBytes o bs) n := by
  intro a ha
  rw [Memory.readByte_writeBytes]
  split_ifs with hin
  · rw [List.getElem?_eq_getElem (by omega)]; rfl
  · exact h a ha

/-- A store at the end of the written cells extends them. -/
theorem written_append {m : Memory} {n : Nat} (h : Written m n) (bs : List Byte) :
    Written (m.writeBytes n bs) (n + bs.length) := by
  intro a ha
  rw [Memory.readByte_writeBytes]
  split_ifs with hin
  · rw [List.getElem?_eq_getElem (by omega)]; rfl
  · exact h a (by omega)

theorem written_zero (m : Memory) : Written m 0 := fun _ h => absurd h (Nat.not_lt_zero _)

/-- What a well-formed SEND_CONTINUE appends is `LEN` bytes long. -/
theorem continueBytes_length {z : Bool} {len : Half} {din : List Byte}
    (h : (Instr.sendContinue z len din).wellFormed = true) : (continueBytes z len din).length = len.toNat := by
  cases z
  · simpa [Instr.wellFormed, dinFills, continueBytes] using h
  · exact List.length_replicate

/-- Every frame effect of a well-formed command keeps the frames in use written: an append is as long as the offset's
move, and RECV_START stores `LEN` bytes. -/
theorem FrameEffect.framesWritten {i : Instr} {s u : State} (hwf : i.wellFormed = true) (h : FrameEffect i s u)
    (hs : FramesWritten s) : FramesWritten u := by
  obtain ⟨htx, hrx⟩ := hs
  cases h with
  | unchanged => exact ⟨htx, hrx⟩
  | start _ => exact ⟨fun _ => written_zero _, hrx⟩
  | append _ hfit _ =>
    refine ⟨fun ha => ?_, hrx⟩
    rw [State.appended_txOff, toNat_add_of_le hfit, ← continueBytes_length hwf]
    exact written_append (htx ha) _
  | close _ => exact ⟨nofun, hrx⟩
  | appendAndClose _ _ _ => exact ⟨nofun, hrx⟩
  | fill d hd _ =>
    have hfilled := written_append (written_zero s.rxb) d
    rw [Nat.zero_add, hd] at hfilled
    exact ⟨htx, fun _ => hfilled⟩
  | spoil d _ _ => exact ⟨htx, fun hf => written_writeBytes (hrx hf) 0 d⟩
  | take _ _ => exact ⟨htx, hrx⟩
  | release _ _ => exact ⟨htx, nofun⟩
  | calculate => exact ⟨htx, hrx⟩
  | accumulate => exact ⟨htx, hrx⟩

/-! ## The whole invariant -/

theorem FrameEffect.goodState {i : Instr} {s u : State} (hwf : i.wellFormed = true) (h : FrameEffect i s u)
    (hs : GoodState s) : GoodState u := by
  obtain ⟨hparams, hoff, hbuf, hframes, hcached⟩ := hs
  refine ⟨?_, h.offsetsInBounds hoff, h.buffersCanonical hbuf, h.framesWritten hwf hframes, ?_⟩
  · rw [h.params]; exact hparams
  · rw [h.curAddrValid, h.busOpen]; exact hcached

/-- Bus use keeps the invariant: an address becomes cached only with the bus open, and the bus stays open. -/
theorem BusProgress.goodState {s t : State} (h : BusProgress s t) (hs : GoodState s) : GoodState t := by
  obtain ⟨hparams, hoff, hbuf, hframes, hcached⟩ := hs
  refine ⟨?_, h.onlyBus.offsetsInBounds hoff, h.onlyBus.buffersCanonical hbuf, h.onlyBus.framesWritten hframes, ?_⟩
  · rw [h.onlyBus.params]; exact hparams
  · intro ht
    exact (h.cachedWhileOpen ht).elim id fun hc => h.staysOpen (hcached hc)

/-- Settles O48, part by part of the invariant through frame effects and bus use. -/
theorem goodStatesStayGood : Obligations.GoodStatesStayGood := fun _ _ hs h =>
  step_keeps (P := GoodState) (fun _ _ h => h) (fun _ _ _ hwf hu => hu.goodState hwf) (fun _ _ hv => hv.goodState)
    (fun _ _ h => h) hs h

/-! ## What is never taken back -/

/-- From `s` to `t` the bus was not closed, the parameters stayed, and events and responses were only appended. -/
structure NothingTakenBack (s t : State) : Prop where
  staysOpen : s.busOpen = true → t.busOpen = true
  params : t.params = s.params
  trace : s.trace <+: t.trace
  responses : s.responses <+: t.responses

theorem NothingTakenBack.refl (s : State) : NothingTakenBack s s := ⟨id, rfl, List.prefix_rfl, List.prefix_rfl⟩

theorem NothingTakenBack.effect {s u v : State} {i : Instr} (h : NothingTakenBack s u) (hv : FrameEffect i u v) :
    NothingTakenBack s v := by
  obtain ⟨hopen, hparams, htrace, hresp⟩ := h
  exact ⟨by rwa [hv.busOpen], by rwa [hv.params], by rwa [hv.trace], by rwa [hv.responses]⟩

theorem NothingTakenBack.bus {s u v : State} (h : NothingTakenBack s u) (hv : BusProgress u v) :
    NothingTakenBack s v where
  staysOpen hs := hv.staysOpen (h.staysOpen hs)
  params := hv.onlyBus.params.trans h.params
  trace := h.trace.trans hv.traceGrows
  responses := by rw [hv.onlyBus.responses]; exact h.responses

theorem NothingTakenBack.respond {s u : State} (h : NothingTakenBack s u) (r : Response) :
    NothingTakenBack s (u.respond r) :=
  ⟨h.staysOpen, h.params, h.trace, h.responses.trans (List.prefix_append _ _)⟩

/-- Settles O52: every part of a step takes nothing back from the state the step began in. -/
theorem nothingIsTakenBack : Obligations.NothingIsTakenBack := fun s _ h => by
  obtain ⟨hopen, hparams, htrace, hresp⟩ := step_keeps (P := NothingTakenBack s)
    (fun _ _ h => ⟨h.staysOpen, h.params, h.trace, h.responses⟩) (fun _ _ _ _ hv hu => hu.effect hv)
    (fun _ _ hv hu => hu.bus hv) (fun _ r hu => hu.respond r) (.refl s) h
  exact ⟨hopen, hparams, htrace, hresp⟩

end Sys2Proof.Machine

/-! PROOF. What single commands leave unchanged (10_state.md R26, R30, R34): the frame effects of the command, and bus use
that touches no register but the bus's. -/

namespace Sys2Proof.Machine

open Sys2Proof.Safety

/-! ## SEND_CONTINUE and SEND_STOP -/

/-- An append of `len` bytes changes no cell outside `[TX_OFF, TX_OFF + len)`. -/
theorem appended_readByte_outside {s : State} {len : Half} {bs : List Byte} {a : Nat} (hbs : bs.length = len.toNat)
    (ha : a < s.txOff.toNat ∨ s.txOff.toNat + len.toNat ≤ a) :
    (s.appended len bs).txb.readByte a = s.txb.readByte a :=
  Memory.readByte_writeBytes_outside (by rwa [hbs])

/-- The frame of SEND_CONTINUE. -/
theorem execSendContinue_frame {z : Bool} {len : Half} {din : List Byte} {s t : State}
    (hwf : (Instr.sendContinue z len din).wellFormed = true) (h : execSendContinue z len din s = .next t) :
    SameRx s t ∧ SameHandle s t ∧ NoBus s t ∧ SameInputs s t ∧ t.crcReg = s.crcReg ∧ t.txLen = s.txLen ∧
      t.txState = s.txState ∧
      ∀ a, a < s.txOff.toNat ∨ s.txOff.toNat + len.toNat ≤ a → t.txb.readByte a = s.txb.readByte a := by
  rcases execSendContinue_next h with ⟨-, rfl⟩ | ⟨-, -, rfl⟩ | ⟨-, -, -, rfl⟩
  · exact ⟨⟨rfl, rfl, rfl, fun _ => rfl⟩, ⟨rfl, rfl, rfl⟩, ⟨rfl, rfl⟩, ⟨rfl, rfl⟩, rfl, rfl, rfl, fun _ _ => rfl⟩
  · exact ⟨⟨rfl, rfl, rfl, fun _ => rfl⟩, ⟨rfl, rfl, rfl⟩, ⟨rfl, rfl⟩, ⟨rfl, rfl⟩, rfl, rfl, rfl, fun _ _ => rfl⟩
  · exact ⟨⟨rfl, rfl, rfl, fun _ => rfl⟩, ⟨rfl, rfl, rfl⟩, ⟨rfl, rfl⟩, ⟨rfl, rfl⟩, rfl, rfl, rfl,
      fun _ ha => appended_readByte_outside (continueBytes_length hwf) ha⟩

/-- The frame effects of SEND_STOP leave all but `TX_STATE`, `TX_OFF` and the cells of the final element. -/
theorem FrameEffect.sendStop_frame {p : Bool} {bus addr : Byte} {len : Half} {din : List Byte} {s u : State}
    (hwf : (Instr.sendStop p bus addr len din).wellFormed = true) (h : FrameEffect (.sendStop p bus addr len din) s u) :
    SameRx s u ∧ SameInputs s u ∧ u.crcReg = s.crcReg ∧ u.txLen = s.txLen ∧
      ∀ a, a < s.txOff.toNat ∨ s.txOff.toNat + len.toNat ≤ a → u.txb.readByte a = s.txb.readByte a := by
  cases h with
  | unchanged | close _ => exact ⟨⟨rfl, rfl, rfl, fun _ => rfl⟩, ⟨rfl, rfl⟩, rfl, rfl, fun _ _ => rfl⟩
  | appendAndClose _ _ _ =>
    have hdin : din.length = len.toNat := by simpa [Instr.wellFormed, dinFills] using hwf
    exact ⟨⟨rfl, rfl, rfl, fun _ => rfl⟩, ⟨rfl, rfl⟩, rfl, rfl,
      fun _ ha => appended_readByte_outside (s := endAssembling s) hdin ha⟩

/-- Settles O44: an append stores exactly `LEN` bytes from `TX_OFF` on; the bus use of SEND_STOP touches no buffer. -/
theorem frameOfAppendingCommands : Obligations.FrameOfAppendingCommands := by
  refine ⟨fun z len din s t hwf h => execSendContinue_frame hwf h, fun p bus addr len din s t hwf h => ?_⟩
  obtain ⟨u, v, r, hu, hv, rfl⟩ := exec_completes h
  have hframe := hu.sendStop_frame hwf
  rw [hv.onlyBus]
  exact hframe

/-! ## The direct commands and RECV_START -/

/-- SEND_SINGLE, WAKE and RECV_SINGLE, the commands that use no buffer (10_state.md R34). -/
inductive IsDirect : Instr → Prop where
  | sendSingle (bus addr : Byte) (len : Half) (din : List Byte) : IsDirect (.sendSingle bus addr len din)
  | wake (bus addr : Byte) : IsDirect (.wake bus addr)
  | recvSingle (bus addr : Byte) : IsDirect (.recvSingle bus addr)

/-- A direct command has no frame effect. -/
theorem IsDirect.eq_of_frameEffect {i : Instr} {s u : State} (hi : IsDirect i) (h : FrameEffect i s u) : u = s := by
  cases hi <;> cases h <;> rfl

/-- A direct command changes the bus fields and appends a response. -/
theorem IsDirect.exec_next {i : Instr} {s t : State} (hi : IsDirect i) (h : exec i s = .next t) :
    ∃ v r, OnlyBus s v ∧ t = v.respond r := by
  obtain ⟨u, v, r, hu, hv, rfl⟩ := exec_completes h
  obtain rfl := hi.eq_of_frameEffect hu
  exact ⟨v, r, hv.onlyBus, rfl⟩

theorem IsDirect.exec_frame {i : Instr} {s t : State} (hi : IsDirect i) (h : exec i s = .next t) :
    SameTx s t ∧ SameRx s t ∧ SameInputs s t ∧ t.crcReg = s.crcReg := by
  obtain ⟨v, r, hb, rfl⟩ := hi.exec_next h
  rw [hb]
  exact ⟨⟨rfl, rfl, rfl, fun _ => rfl⟩, ⟨rfl, rfl, rfl, fun _ => rfl⟩, ⟨rfl, rfl⟩, rfl⟩

/-- The frame effects of RECV_START leave the transmit side and every cell of `RXB` from `LEN` on. -/
theorem FrameEffect.recvStart_frame {bus addr : Byte} {len : Half} {s u : State}
    (h : FrameEffect (.recvStart bus addr len) s u) :
    SameTx s u ∧ SameInputs s u ∧ u.crcReg = s.crcReg ∧
      ∀ a, len.toNat ≤ a → u.rxb.readByte a = s.rxb.readByte a := by
  cases h with
  | unchanged => exact ⟨⟨rfl, rfl, rfl, fun _ => rfl⟩, ⟨rfl, rfl⟩, rfl, fun _ _ => rfl⟩
  | fill d hd _ | spoil d hd _ =>
    refine ⟨⟨rfl, rfl, rfl, fun _ => rfl⟩, ⟨rfl, rfl⟩, rfl, fun a ha => ?_⟩
    exact Memory.readByte_writeBytes_outside (.inr (by omega))

/-- Settles O45: the direct commands have no frame effect, and RECV_START stores `LEN` bytes from cell 0 on. -/
theorem frameOfBusCommands : Obligations.FrameOfBusCommands := by
  constructor
  · rintro bus addr len din s t (h | h | h)
    · exact (IsDirect.sendSingle bus addr len din).exec_frame h
    · exact (IsDirect.wake bus addr).exec_frame h
    · exact (IsDirect.recvSingle bus addr).exec_frame h
  · intro bus addr len s t h
    obtain ⟨u, v, r, hu, hv, rfl⟩ := exec_completes h
    rw [hv.onlyBus]
    exact hu.recvStart_frame

end Sys2Proof.Machine

/-! PROOF. The direct commands do not see the frame registers and buffers (10_state.md R34): a change of state that leaves
the bus fields, the parameters and the responses alone goes through each of their sub-steps. -/

namespace Sys2Proof.Machine

open Sys2Proof.Safety

/-- `r'` ends as `r` does, in the state changed by `f`; nothing is said where `r` stops. -/
def Ran.LiftsTo {α : Type} (f : State → State) (r r' : Ran α) : Prop :=
  match r with
  | .ok a s => r' = .ok a (f s)
  | .raised e s => r' = .raised e (f s)
  | .stopped _ => True

/-- Sub-steps that a change goes through, it goes through together. -/
theorem Ran.LiftsTo.andThen {α β : Type} {f : State → State} {r r' : Ran α} {k : α → State → Ran β}
    (hr : r.LiftsTo f r') (hk : ∀ a s, (k a s).LiftsTo f (k a (f s))) : (r.andThen k).LiftsTo f (r'.andThen k) := by
  cases r with
  | ok a s => obtain rfl : r' = _ := hr; exact hk a s
  | raised e s => obtain rfl : r' = _ := hr; rfl
  | stopped x => trivial

/-- A change that a response does not notice goes through the end of a command. -/
theorem Ran.LiftsTo.finish {f : State → State} (hf : ∀ s r, f (State.respond s r) = (f s).respond r)
    {r r' : Ran Response} (h : r.LiftsTo f r') {t : State} (ht : Machine.finish r = .next t) :
    Machine.finish r' = .next (f t) := by
  rcases finish_eq_next.mp ht with ⟨resp, s, rfl, rfl⟩ | ⟨e, s, rfl, rfl⟩
  · obtain rfl : r' = _ := h
    rw [finish_ok, hf]
  · obtain rfl : r' = _ := h
    rw [finish_raised, hf]

/-- An operation that sees and changes nothing but the bus lets through every change that leaves the bus. -/
theorem LeavesBus.liftsTo {f : State → State} (hf : LeavesBus f) {α : Type} {op : State → Ran α}
    (hgraft : ∀ u s, op (graft u s) = (op s).mapState (graft u)) {s : State} (hbus : (op s).Ends (OnlyBus s)) :
    (op s).LiftsTo f (op (f s)) := by
  have hs : f s = graft (f s) s := hf.of_onlyBus (.refl s)
  rw [hs, hgraft]
  cases hop : op s with
  | ok a v =>
    rw [hop] at hbus
    exact congrArg (Ran.ok a) (hf.of_onlyBus hbus).symm
  | raised e v =>
    rw [hop] at hbus
    exact congrArg (Ran.raised e) (hf.of_onlyBus hbus).symm
  | stopped x => trivial

section Transfers
variable {f : State → State} (hf : LeavesBus f)

theorem requireCount_liftsTo (f : State → State) (n : Count) (want : Nat) (e : Status) (s : State) :
    (requireCount n want e s).LiftsTo f (requireCount n want e (f s)) := by
  unfold requireCount
  split <;> rfl

include hf

theorem connect_liftsTo (bus addr : Byte) (s : State) :
    (connect bus addr s).LiftsTo f (connect bus addr (f s)) :=
  hf.liftsTo (op := connect bus addr) (fun u s => connect_graft u bus addr s) (connect_onlyBus bus addr s)

theorem writeFully_liftsTo (bs : List Byte) (want : Nat) (s : State) :
    (writeFully bs want s).LiftsTo f (writeFully bs want (f s)) :=
  (hf.liftsTo (op := writeRaw bs) (fun u s => writeRaw_graft u bs s) (writeRaw_onlyBus bs s)).andThen
    fun _ _ => requireCount_liftsTo f _ _ _ _

theorem readFully_liftsTo (len : Nat) (s : State) : (readFully len s).LiftsTo f (readFully len (f s)) :=
  (hf.liftsTo (op := readRaw len) (fun u s => readRaw_graft u len s) (readRaw_onlyBus len s)).andThen
    fun _ _ => (requireCount_liftsTo f _ _ _ _).andThen fun _ _ => rfl

theorem delay_liftsTo (ms : Nat) (s : State) : (delay ms s).LiftsTo f (delay ms (f s)) :=
  hf.liftsTo (op := delay ms) (fun _ _ => rfl) (busProgress_record s _).onlyBus

end Transfers

/-- A change of state that goes through every direct command: it leaves the bus fields and the parameters, and a response
is appended the same before it and after it. -/
structure Unseen (f : State → State) : Prop where
  leavesBus : LeavesBus f
  params : ∀ s, (f s).params = s.params
  respond : ∀ s r, f (State.respond s r) = (f s).respond r

theorem unseen_withTxOf (u : State) : Unseen (withTxOf u) := ⟨fun _ _ => rfl, fun _ => rfl, fun _ _ => rfl⟩

theorem unseen_withRxOf (u : State) : Unseen (withRxOf u) := ⟨fun _ _ => rfl, fun _ => rfl, fun _ _ => rfl⟩

/-- An unseen change goes through a direct command. -/
theorem IsDirect.exec_unseen {i : Instr} (hi : IsDirect i) {f : State → State} (hf : Unseen f) {s t : State}
    (h : exec i s = .next t) : exec i (f s) = .next (f t) := by
  have hb := hf.leavesBus
  cases hi with
  | sendSingle bus addr len din =>
    refine Ran.LiftsTo.finish hf.respond ?_ h
    exact (connect_liftsTo hb bus addr s).andThen fun _ s =>
      (writeFully_liftsTo hb din len.toNat s).andThen fun _ s => rfl
  | wake bus addr =>
    refine Ran.LiftsTo.finish hf.respond ?_ h
    exact (connect_liftsTo hb bus addr s).andThen fun _ s =>
      (writeFully_liftsTo hb wakeBytes 1 s).andThen fun _ s =>
      (delay_liftsTo hb _ s).andThen fun _ s => rfl
  | recvSingle bus addr =>
    refine Ran.LiftsTo.finish hf.respond ?_ h
    refine (connect_liftsTo hb bus addr s).andThen fun _ s =>
      (readFully_liftsTo hb 1 s).andThen fun h s => (readFully_liftsTo hb 2 s).andThen fun b s => ?_
    rw [hf.params]
    split
    · rfl
    · exact (readFully_liftsTo hb (payloadLength b) s).andThen fun _ _ => rfl

/-- Settles O23: putting other frame registers and buffers into the state is a change that no direct command sees. -/
theorem directCommandsIgnoreFrames : Obligations.DirectCommandsIgnoreFrames := by
  intro i s t u hi h
  have hi : IsDirect i := by
    obtain ⟨bus, addr, len, din, rfl⟩ | ⟨bus, addr, rfl⟩ | ⟨bus, addr, rfl⟩ := hi
    · exact .sendSingle bus addr len din
    · exact .wake bus addr
    · exact .recvSingle bus addr
  exact ⟨hi.exec_unseen (unseen_withTxOf u) h, hi.exec_unseen (unseen_withRxOf u) h⟩

end Sys2Proof.Machine

/-! PROOF. What the commands without a `BUS` field leave unchanged (20_memory.md R72; 40_bus_handle.md R116; 10_state.md
R34, R39): they make no bus call, so their next state is one of their frame effects and a response. -/

namespace Sys2Proof.Machine

open Sys2Proof.Safety

/-- A command without a `BUS` field has a frame effect and responds; it uses no bus. -/
theorem exec_next_of_busFields_none {i : Instr} {s t : State} (hi : busFields i = none) (h : exec i s = .next t) :
    ∃ u r, FrameEffect i s u ∧ t = u.respond r := by
  cases i with
  | sendStart bus addr len =>
    rcases execSendStart_next (bus := bus) (addr := addr) h with ⟨-, rfl⟩ | ⟨hlen, rfl⟩
    · exact ⟨s, _, .unchanged _ s, rfl⟩
    · exact ⟨_, _, .start hlen, rfl⟩
  | sendContinue z len din =>
    rcases execSendContinue_next h with ⟨-, rfl⟩ | ⟨-, -, rfl⟩ | ⟨ha, hfit, hcells, rfl⟩
    · exact ⟨s, _, .unchanged _ s, rfl⟩
    · exact ⟨s, _, .unchanged _ s, rfl⟩
    · exact ⟨_, _, .append ha hfit hcells, rfl⟩
  | recvContinue len =>
    rcases execRecvContinue_next h with ⟨-, rfl⟩ | ⟨-, -, rfl⟩ | ⟨hf, hfit, d, -, rfl⟩
    · exact ⟨s, _, .unchanged _ s, rfl⟩
    · exact ⟨s, _, .unchanged _ s, rfl⟩
    · exact ⟨_, _, .take hf hfit, rfl⟩
  | recvStop len =>
    rcases execRecvStop_next h with ⟨-, rfl⟩ | ⟨-, -, rfl⟩ | ⟨hf, hfit, d, -, rfl⟩
    · exact ⟨s, _, .unchanged _ s, rfl⟩
    · exact ⟨s, _, .unchanged _ s, rfl⟩
    · exact ⟨_, _, .release hf hfit, rfl⟩
  | crcCalculate len din =>
    cases h
    exact ⟨_, _, .calculate, rfl⟩
  | crcAccumulate len din =>
    cases h
    exact ⟨_, _, .accumulate, rfl⟩
  | sendStop | sendSingle | wake | recvStart | recvSingle => cases hi

/-- SEND_START changes at most the transmit registers, and responds. -/
theorem exec_sendStart_next {bus addr : Byte} {len : Half} {s t : State}
    (h : exec (.sendStart bus addr len) s = .next t) :
    ∃ st n o r, t = State.respond { s with txState := st, txLen := n, txOff := o } r := by
  obtain ⟨u, r, hu, rfl⟩ := exec_next_of_busFields_none rfl h
  cases hu with
  | unchanged => exact ⟨s.txState, s.txLen, s.txOff, r, rfl⟩
  | start _ => exact ⟨_, _, _, r, rfl⟩

/-- RECV_CONTINUE and RECV_STOP change at most `RX_STATE` and `RX_OFF`, and respond. -/
theorem exec_recvContinue_or_recvStop_next {len : Half} {s t : State}
    (h : exec (.recvContinue len) s = .next t ∨ exec (.recvStop len) s = .next t) :
    ∃ st o r, t = State.respond { s with rxState := st, rxOff := o } r := by
  rcases h with h | h
  · obtain ⟨u, r, hu, rfl⟩ := exec_next_of_busFields_none rfl h
    cases hu with
    | unchanged => exact ⟨s.rxState, s.rxOff, r, rfl⟩
    | take _ _ => exact ⟨s.rxState, _, r, rfl⟩
  · obtain ⟨u, r, hu, rfl⟩ := exec_next_of_busFields_none rfl h
    cases hu with
    | unchanged => exact ⟨s.rxState, s.rxOff, r, rfl⟩
    | release _ _ => exact ⟨_, _, r, rfl⟩

/-- The CRC commands change `CRC_REG`, and respond. -/
theorem exec_crcCalculate_or_crcAccumulate_next {len : Half} {din : List Byte} {s t : State}
    (h : exec (.crcCalculate len din) s = .next t ∨ exec (.crcAccumulate len din) s = .next t) :
    ∃ c r, t = State.respond { s with crcReg := c } r := by
  rcases h with h | h
  · exact ⟨_, _, (Host.Outcome.next.inj ((execCrcCalculate_eq len din s).symm.trans h)).symm⟩
  · exact ⟨_, _, (Host.Outcome.next.inj ((execCrcAccumulate_eq len din s).symm.trans h)).symm⟩

/-- Settles O43: each of the five commands writes its own registers and nothing else. -/
theorem frameOfRegisterCommands : Obligations.FrameOfRegisterCommands := by
  refine ⟨fun bus addr len s t h => ?_, fun len s t h => ?_, fun len din s t h => ?_⟩
  · obtain ⟨st, n, o, r, rfl⟩ := exec_sendStart_next h
    exact ⟨⟨rfl, rfl, rfl, fun _ => rfl⟩, ⟨rfl, rfl, rfl⟩, ⟨rfl, rfl⟩, ⟨rfl, rfl⟩, rfl, fun _ => rfl⟩
  · obtain ⟨st, o, r, rfl⟩ := exec_recvContinue_or_recvStop_next h
    exact ⟨⟨rfl, rfl, rfl, fun _ => rfl⟩, ⟨rfl, rfl, rfl⟩, ⟨rfl, rfl⟩, ⟨rfl, rfl⟩, rfl, rfl, fun _ => rfl⟩
  · obtain ⟨c, r, rfl⟩ := exec_crcCalculate_or_crcAccumulate_next h
    exact ⟨⟨rfl, rfl, rfl, fun _ => rfl⟩, ⟨rfl, rfl, rfl, fun _ => rfl⟩, ⟨rfl, rfl, rfl⟩, ⟨rfl, rfl⟩, ⟨rfl, rfl⟩⟩

end Sys2Proof.Machine

/-! PROOF. The bus transactions of a command that succeeds (20_memory.md R72): the events of its bus handle and after them
its transfers. -/

namespace Sys2Proof.Machine

open Sys2Proof.Safety

/-- From `s` to `t` one response was given, and its status is `OK`. -/
def AnswersOk (s t : State) : Prop := ∃ r, t.responses = s.responses ++ [r] ∧ r.status = .ok

/-- A command that ends with `answered e` succeeds only with `e` the status `OK`. -/
theorem AnswersOk.status {s v : State} {e : Status} (h : AnswersOk s (answered e v))
    (hv : v.responses = s.responses) : e = .ok := by
  obtain ⟨r, hr, hok⟩ := h
  rw [answered_responses, hv] at hr
  obtain rfl := List.singleton_inj.mp (List.append_cancel_left hr)
  exact hok

/-- A command whose bus handle raises does not succeed. -/
theorem not_answersOk_of_connect_raised {bus addr : Byte} {e : Status} {s u v : State}
    (hcon : connect bus addr u = .raised e v) (hu : u.responses = s.responses) : ¬ AnswersOk s (answered e v) := by
  intro h
  obtain ⟨hb, -, he, -, -, -⟩ := connect_eq_raised hcon
  obtain rfl := h.status (hb.responses.trans hu)
  simp at he

/-- From `s` to `t` the trace grew by the events of a successful bus handle and then by the transfers of `i`. -/
def Transacts (i : Instr) (bus addr : Byte) (s t : State) : Prop :=
  ∃ evs, transfersFit i t.txOff.toNat evs ∧ t.trace = s.trace ++ handleEvents bus addr s ++ evs

/-- Transfers that follow a bus handle. -/
theorem Transacts.of_connect {i : Instr} {bus addr : Byte} {s v t : State} {evs : List Event}
    (hcon : connect bus addr s = .ok () v) (ht : t.trace = v.trace ++ evs) (hfit : transfersFit i t.txOff.toNat evs) :
    Transacts i bus addr s t := by
  obtain ⟨-, htrace, -, -, -⟩ := connect_eq_ok hcon
  exact ⟨evs, hfit, by rw [ht, htrace]⟩

/-- A successful SEND_STOP: its state check and its append add no event and leave the bus handle's choices as they were,
and its one write carries the `TX_OFF` cells of the frame. -/
theorem execSendStop_transacts {p : Bool} {bus addr : Byte} {len : Half} {din : List Byte} {s t : State}
    (h : execSendStop p bus addr len din s = .next t) (hok : AnswersOk s t) :
    Transacts (.sendStop p bus addr len din) bus addr s t := by
  rcases execSendStop_next h with
    ⟨-, rfl⟩ | ⟨-, -, -, rfl⟩ | ⟨-, -, ⟨e, v, hcon, rfl⟩ | ⟨v, bs, c, hcon, hbs, rfl⟩⟩
  · exact nomatch hok.status rfl
  · exact nomatch hok.status rfl
  · exact absurd hok (not_answersOk_of_connect_raised hcon (s.closed_responses p len din))
  · obtain ⟨hb, htrace, -, -, -⟩ := connect_eq_ok hcon
    obtain rfl : c = .count v.txOff.toNat := by
      simpa using hok.status (hb.responses.trans (s.closed_responses p len din))
    have hhandle : handleEvents bus addr (s.closed p len din) = handleEvents bus addr s := by simp [handleEvents]
    have hlen : bs.length = v.txOff.toNat := (Memory.readBytes_eq_some_iff.mp hbs).1
    exact ⟨_, ⟨bs, hlen, rfl⟩, by simp [htrace, hhandle]⟩

theorem execSendSingle_transacts {bus addr : Byte} {len : Half} {din : List Byte} {s t : State}
    (h : execSendSingle bus addr len din s = .next t) (hok : AnswersOk s t) :
    Transacts (.sendSingle bus addr len din) bus addr s t := by
  rcases execSendSingle_next h with ⟨e, v, hcon, rfl⟩ | ⟨v, c, hcon, rfl⟩
  · exact absurd hok (not_answersOk_of_connect_raised hcon rfl)
  · obtain ⟨hb, -, -, -, -⟩ := connect_eq_ok hcon
    obtain rfl : c = .count len.toNat := by simpa using hok.status hb.responses
    exact .of_connect hcon rfl rfl

theorem execWake_transacts {bus addr : Byte} {s t : State} (h : execWake bus addr s = .next t) (hok : AnswersOk s t) :
    Transacts (.wake bus addr) bus addr s t := by
  rcases execWake_next h with ⟨e, v, hcon, rfl⟩ | ⟨v, hcon, hv⟩
  · exact absurd hok (not_answersOk_of_connect_raised hcon rfl)
  obtain ⟨hb, -, -, -, -⟩ := connect_eq_ok hcon
  rcases hv with ⟨c, -, rfl⟩ | rfl
  · exact nomatch hok.status hb.responses
  · exact .of_connect hcon (List.append_assoc _ _ _) rfl

theorem execRecvStart_transacts {bus addr : Byte} {len : Half} {s t : State}
    (h : execRecvStart bus addr len s = .next t) (hok : AnswersOk s t) :
    Transacts (.recvStart bus addr len) bus addr s t := by
  rcases execRecvStart_next h with ⟨-, rfl⟩ | ⟨-, ⟨e, v, hcon, rfl⟩ | ⟨v, hcon, hv⟩⟩
  · exact nomatch hok.status rfl
  · exact absurd hok (not_answersOk_of_connect_raised hcon rfl)
  obtain ⟨hb, -, -, -, -⟩ := connect_eq_ok hcon
  rcases hv with ⟨d, -, rfl⟩ | ⟨c, d, b, -, -, rfl⟩
  · exact .of_connect hcon rfl ⟨d, rfl⟩
  · exact nomatch hok.status hb.responses

/-- Two bytes spell their big-endian number (20_memory.md R54). -/
theorem payloadLength_pair (hi lo : Byte) : payloadLength [hi, lo] = hi.toNat * 256 + lo.toNat := rfl

/-- A successful RECV_SINGLE: a read of one byte, one of two, and one of the number those two spell. -/
theorem execRecvSingle_transacts {bus addr : Byte} {s t : State} (h : execRecvSingle bus addr s = .next t)
    (hok : AnswersOk s t) : Transacts (.recvSingle bus addr) bus addr s t := by
  rcases execRecvSingle_next h with ⟨e, v, hcon, rfl⟩ | ⟨v, hcon, hv⟩
  · exact absurd hok (not_answersOk_of_connect_raised hcon rfl)
  obtain ⟨hb, -, -, -, -⟩ := connect_eq_ok hcon
  rcases hv with ⟨c, d, -, rfl⟩ | ⟨h1, hl1, ⟨c, d, -, rfl⟩ | ⟨b, hl2, ⟨-, rfl⟩ | ⟨-, ⟨c, d, -, rfl⟩ | ⟨q, -, rfl⟩⟩⟩⟩
  · exact nomatch hok.status (by simp [hb.responses])
  · exact nomatch hok.status (by simp [hb.responses])
  · exact nomatch hok.status (by simp [hb.responses])
  · exact nomatch hok.status (by simp [hb.responses])
  · obtain ⟨hdr, rfl⟩ := List.length_eq_one_iff.mp hl1
    obtain ⟨hi, lo, rfl⟩ := List.length_eq_two.mp hl2
    refine .of_connect hcon (evs := [.evRead 1 (.count 1) [hdr], .evRead 2 (.count 2) [hi, lo],
      .evRead (payloadLength [hi, lo]) (.count (payloadLength [hi, lo])) q]) (by simp) ?_
    exact ⟨hdr, hi, lo, _, q, payloadLength_pair hi lo, rfl⟩

/-- Settles O51: a command without a `BUS` field adds no event, and each bus command that succeeds adds those of its bus
handle and its row of R72. -/
theorem transactionsOfSuccess : Obligations.TransactionsOfSuccess := by
  intro i s t r h hr hstatus
  have hok : AnswersOk s t := ⟨r, hr, hstatus⟩
  cases i with
  | sendStop p bus addr len din => exact execSendStop_transacts h hok
  | sendSingle bus addr len din => exact execSendSingle_transacts h hok
  | wake bus addr => exact execWake_transacts h hok
  | recvStart bus addr len => exact execRecvStart_transacts h hok
  | recvSingle bus addr => exact execRecvSingle_transacts h hok
  | sendStart | sendContinue | recvContinue | recvStop | crcCalculate | crcAccumulate =>
    obtain ⟨u, x, hu, rfl⟩ := exec_next_of_busFields_none rfl h
    exact hu.trace

end Sys2Proof.Machine

/-! PROOF. The decoder and the encoder invert each other (30_encoding.md R81 to R87): the words of an instruction carry
its opcode, its fixed bits and its operands, and words that pass the checks of R86 are put together from their fields. -/

namespace Sys2Proof

open Sys2Proof.Safety

/-! ## From an instruction to its words and back -/

/-- The opcode of an instruction (R84). -/
def Instr.opcode : Instr → Opcode
  | .sendStart _ _ _ => .sendStart
  | .sendContinue _ _ _ => .sendContinue
  | .sendStop _ _ _ _ _ => .sendStop
  | .sendSingle _ _ _ _ => .sendSingle
  | .wake _ _ => .wake
  | .recvStart _ _ _ => .recvStart
  | .recvContinue _ => .recvContinue
  | .recvStop _ => .recvStop
  | .recvSingle _ _ => .recvSingle
  | .crcCalculate _ _ => .crcCalculate
  | .crcAccumulate _ _ => .crcAccumulate

/-- The words of every instruction pass the checks on the fixed bits. -/
theorem rowBits (i : Instr) : Laws.RowBits.Statement i := by
  cases i with
  | sendStart bus addr len => exact Laws.RowBits.sendStart bus addr len
  | sendContinue z len din => exact Laws.RowBits.sendContinue z len din
  | sendStop p bus addr len din => exact Laws.RowBits.sendStop p bus addr len din
  | sendSingle bus addr len din => exact Laws.RowBits.sendSingle bus addr len din
  | wake bus addr => exact Laws.RowBits.wake bus addr
  | recvStart bus addr len => exact Laws.RowBits.recvStart bus addr len
  | recvContinue len => exact Laws.RowBits.recvContinue len
  | recvStop len => exact Laws.RowBits.recvStop len
  | recvSingle bus addr => exact Laws.RowBits.recvSingle bus addr
  | crcCalculate len din => exact Laws.RowBits.crcCalculate len din
  | crcAccumulate len din => exact Laws.RowBits.crcAccumulate len din

theorem opcodeOf_encode (i : Instr) : opcodeOf (opcField (encode i).cmd) = some i.opcode := by
  cases i <;> rw [encode, opcField_cmdWord] <;> rfl

/-- The operands are read back from the words. -/
theorem assembleOperands_encode (i : Instr) : assembleOperands i.opcode (encode i) = i := by
  cases i <;> simp [Instr.opcode, assembleOperands, encode]

/-- A well-formed instruction carries data of the length its words ask for (R83). -/
theorem din_length_encode {i : Instr} (hwf : i.wellFormed = true) :
    (encode i).din.length = dinExpected i.opcode (encode i).cmd (encode i).arg := by
  cases i with
  | sendContinue z len din =>
    cases z <;> simpa [encode, Instr.opcode, dinExpected, Instr.wellFormed, dinFills] using hwf
  | sendStop p bus addr len din =>
    cases p with
    | false =>
      obtain ⟨-, hdin⟩ : len = 0 ∧ din = [] := by simpa [Instr.wellFormed] using hwf
      simp [encode, Instr.opcode, dinExpected, hdin]
    | true => simpa [encode, Instr.opcode, dinExpected, Instr.wellFormed, dinFills] using hwf
  | sendSingle | crcCalculate | crcAccumulate =>
    simpa [encode, Instr.opcode, dinExpected, Instr.wellFormed, dinFills] using hwf
  | sendStart | wake | recvStart | recvContinue | recvStop | recvSingle => rfl

/-- The instructions whose `LEN` must be zero have it zero (R85). -/
theorem len_encode_of_mustBeZero {i : Instr} (h : i.opcode = .wake ∨ i.opcode = .recvSingle) :
    lenField (encode i).arg = 0 := by
  cases i with
  | wake | recvSingle => exact lenField_argWord 0
  | _ => simp [Instr.opcode] at h

/-- A well-formed SEND_STOP without a final element has `LEN = 0` (R85). -/
theorem len_encode_of_noFinal {i : Instr} (hwf : i.wellFormed = true) (h : i.opcode = .sendStop)
    (hp : pField (encode i).cmd = false) : lenField (encode i).arg = 0 := by
  cases i with
  | sendStop p bus addr len din =>
    obtain rfl : p = false := by simpa [encode] using hp
    obtain ⟨rfl, -⟩ : len = 0 ∧ din = [] := by simpa [Instr.wellFormed] using hwf
    exact lenField_argWord 0
  | _ => simp [Instr.opcode] at h

/-- Settles O1: the words of a well-formed instruction pass every check of R86, and their operands are its own. -/
theorem decodeReadsEncodeBack : Obligations.DecodeReadsEncodeBack := by
  intro i hwf
  obtain ⟨op, hop, hmask, hrsv⟩ := rowBits i
  obtain rfl : i.opcode = op := Option.some.inj ((opcodeOf_encode i).symm.trans hop)
  exact (decode_eq_ok_iff _ _).mpr ⟨_, hop, hmask, hrsv, len_encode_of_mustBeZero, len_encode_of_noFinal hwf,
    din_length_encode hwf, (assembleOperands_encode i).symm⟩

/-! ## From a command to its instruction and back -/

/-- A command word is put together from its fields when its reserved bits are zero (R81). -/
theorem cmdWord_fields {cmd : Word} (hrsv : cmd &&& 0xFF0000C0 = 0) :
    cmdWord (opcField cmd) (zField cmd) (pField cmd) (busField cmd) (addrField cmd) = cmd := by
  apply BitVec.eq_of_getLsbD_eq
  intro j hj
  have hbit : (cmd &&& 0xFF0000C0).getLsbD j = false := by rw [hrsv]; exact BitVec.getLsbD_zero
  simp only [cmdWord, opcField, zField, pField, busField, addrField, BitVec.getLsbD_append,
    BitVec.getLsbD_extractLsb', BitVec.getLsbD_and] at hbit ⊢
  interval_cases j <;> simp_all

/-- An argument word is its `LEN` when its reserved half is zero (R82). -/
theorem argWord_lenField {arg : Word} (hrsv : rsvField arg = 0) : argWord (lenField arg) = arg := by
  apply BitVec.eq_of_getLsbD_eq
  intro j hj
  have hbit : (rsvField arg).getLsbD (j - 16) = false := by rw [hrsv]; exact BitVec.getLsbD_zero
  simp only [argWord, lenField, rsvField, BitVec.getLsbD_append, BitVec.getLsbD_extractLsb'] at hbit ⊢
  interval_cases j <;> simp_all

section FixedBits
variable {cmd : Word} {op : Opcode} (h : cmd &&& cmdMask op = cmdPattern op)
include h

/-- A bit that the row of R85 fixes is the row's. -/
theorem getLsbD_of_mask {j : Nat} (hfixed : (cmdMask op).getLsbD j = true) :
    cmd.getLsbD j = (cmdPattern op).getLsbD j := by
  rw [← h, BitVec.getLsbD_and, hfixed, Bool.and_true]

/-- A field all of whose bits the row of R85 fixes is the row's. -/
theorem extractLsb'_of_mask {start n : Nat} (hfixed : (cmdMask op).extractLsb' start n = BitVec.allOnes n) :
    cmd.extractLsb' start n = (cmdPattern op).extractLsb' start n := by
  rw [← h, BitVec.extractLsb'_and, hfixed, BitVec.and_allOnes]

/-- The reserved bits of R81 are fixed to zero in every row of R85. -/
theorem reserved_of_mask : cmd &&& 0xFF0000C0 = 0 := by
  have hmask : cmdMask op &&& 0xFF0000C0 = 0xFF0000C0 := by cases op <;> rfl
  have hpattern : cmdPattern op &&& 0xFF0000C0 = 0 := by cases op <;> rfl
  rw [← hmask, ← BitVec.and_assoc, h, hpattern]

end FixedBits

/-- A command word that matches its row of R85 is put together again from the row's opcode and operand fields: the
fields that are no operands of the row are zero. -/
theorem encode_assembleOperands_cmd {op : Opcode} {c : Command} (h : c.cmd &&& cmdMask op = cmdPattern op) :
    (encode (assembleOperands op c)).cmd = c.cmd := by
  refine Eq.trans ?_ (cmdWord_fields (reserved_of_mask h))
  have hopc : opcField c.cmd = opcField (cmdPattern op) := extractLsb'_of_mask h (by cases op <;> rfl)
  rw [hopc]
  cases op with
  | sendStart | sendSingle | wake | recvStart | recvSingle =>
    have hz : zField c.cmd = false := getLsbD_of_mask h rfl
    have hp : pField c.cmd = false := getLsbD_of_mask h rfl
    rw [hz, hp]; rfl
  | sendContinue =>
    have hp : pField c.cmd = false := getLsbD_of_mask h rfl
    have hbus : busField c.cmd = 0 := extractLsb'_of_mask h rfl
    have haddr : addrField c.cmd = 0 := extractLsb'_of_mask h rfl
    rw [hp, hbus, haddr]; rfl
  | sendStop =>
    have hz : zField c.cmd = false := getLsbD_of_mask h rfl
    rw [hz]; rfl
  | recvContinue | recvStop | crcCalculate | crcAccumulate =>
    have hz : zField c.cmd = false := getLsbD_of_mask h rfl
    have hp : pField c.cmd = false := getLsbD_of_mask h rfl
    have hbus : busField c.cmd = 0 := extractLsb'_of_mask h rfl
    have haddr : addrField c.cmd = 0 := extractLsb'_of_mask h rfl
    rw [hz, hp, hbus, haddr]; rfl

/-- The argument word of a command that passes the checks of R86 on `ARG` is its `LEN`. -/
theorem encode_assembleOperands_arg {op : Opcode} {c : Command} (hrsv : rsvField c.arg = 0)
    (hlen : op = .wake ∨ op = .recvSingle → lenField c.arg = 0) : (encode (assembleOperands op c)).arg = c.arg := by
  refine Eq.trans ?_ (argWord_lenField hrsv)
  cases op with
  | wake | recvSingle => rw [hlen (by simp)]; rfl
  | _ => rfl

/-- A command whose `DIN` has the length of R83 carries no byte that is not its instruction's. -/
theorem encode_assembleOperands_din {op : Opcode} {c : Command}
    (hdin : c.din.length = dinExpected op c.cmd c.arg) : (encode (assembleOperands op c)).din = c.din := by
  cases op with
  | sendStart | wake | recvStart | recvContinue | recvStop | recvSingle =>
    exact (List.eq_nil_of_length_eq_zero hdin).symm
  | _ => rfl

theorem Command.eq_of_parts {c d : Command} (hcmd : c.cmd = d.cmd) (harg : c.arg = d.arg) (hdin : c.din = d.din) :
    c = d := by
  obtain ⟨cmd, arg, din⟩ := c
  cases hcmd; cases harg; cases hdin
  rfl

/-- Settles O2: what decodes is well-formed, and each of its three parts is put together again from its fields. -/
theorem encodeReproducesDecodedWords : Obligations.EncodeReproducesDecodedWords := by
  intro c i h
  refine ⟨Machine.wellFormed_of_decode h, ?_⟩
  obtain ⟨op, -, hmask, hrsv, hlen, -, hdin, rfl⟩ := (decode_eq_ok_iff c i).mp h
  exact Command.eq_of_parts (encode_assembleOperands_cmd hmask) (encode_assembleOperands_arg hrsv hlen)
    (encode_assembleOperands_din hdin)

end Sys2Proof

/-! PROOF. The checks of the decoder against the spec's rows (30_encoding.md R83 to R87): the operands are the numeric
fields, the commands that decode are the legal ones, and a step answers each command once. -/

namespace Sys2Proof

open Sys2Proof.Safety

/-! ## The fields as numbers -/

theorem opcField_toNat (cmd : Word) : (opcField cmd).toNat = cmd.toNat % 16 := by
  simp [opcField, BitVec.extractLsb'_toNat]

theorem busField_toNat (cmd : Word) : (busField cmd).toNat = cmd.toNat / 2 ^ 8 % 2 ^ 8 := by
  rw [busField, BitVec.extractLsb'_toNat, Nat.shiftRight_eq_div_pow]

theorem addrField_toNat (cmd : Word) : (addrField cmd).toNat = cmd.toNat / 2 ^ 16 % 2 ^ 8 := by
  rw [addrField, BitVec.extractLsb'_toNat, Nat.shiftRight_eq_div_pow]

theorem lenField_toNat (arg : Word) : (lenField arg).toNat = arg.toNat % 2 ^ 16 := by
  rw [lenField, BitVec.extractLsb'_toNat, Nat.shiftRight_zero]

theorem lenField_eq_zero_iff (arg : Word) : lenField arg = 0 ↔ arg.toNat % 65536 = 0 := by
  rw [← BitVec.toNat_inj, lenField_toNat]; rfl

theorem rsvField_eq_zero_iff (arg : Word) : rsvField arg = 0 ↔ arg.toNat / 65536 = 0 := by
  have hlt : arg.toNat / 2 ^ 16 < 2 ^ 16 := Nat.div_lt_of_lt_mul arg.isLt
  rw [← BitVec.toNat_inj, rsvField, BitVec.extractLsb'_toNat, Nat.shiftRight_eq_div_pow, Nat.mod_eq_of_lt hlt]
  rfl

/-! ## Operands -/

/-- The operands put together for any opcode are the fields of R87. -/
theorem operandsFrom_assembleOperands (op : Opcode) (c : Command) : OperandsFrom c (assembleOperands op c) := by
  have hz : zField c.cmd = c.cmd.toNat.testBit 4 := rfl
  have hp : pField c.cmd = c.cmd.toNat.testBit 5 := rfl
  cases op <;>
    simp [OperandsFrom, operandsOf, assembleOperands, busField_toNat, addrField_toNat, lenField_toNat, hz, hp]

/-- Settles O4: a command that decodes gives the operands put together from its fields. -/
theorem operandsAreTheFields : Obligations.OperandsAreTheFields := by
  intro c i h
  obtain ⟨op, -, -, -, -, -, -, rfl⟩ := (decode_eq_ok_iff c i).mp h
  exact operandsFrom_assembleOperands op c

/-! ## Legal commands -/

/-- The number of an opcode (R84). -/
def Opcode.number : Opcode → Nat
  | .sendStart => 0x1
  | .sendContinue => 0x2
  | .sendStop => 0x3
  | .sendSingle => 0x4
  | .wake => 0x5
  | .recvStart => 0x6
  | .recvContinue => 0x7
  | .recvStop => 0x8
  | .recvSingle => 0x9
  | .crcCalculate => 0xA
  | .crcAccumulate => 0xB

/-- The opcode map takes a field to the opcode of that number. -/
theorem opcodeOf_eq_some_iff (o : BitVec 4) (op : Opcode) : opcodeOf o = some op ↔ o.toNat = op.number := by
  revert o
  cases op <;> decide

theorem opcodeNumber_assembleOperands (op : Opcode) (c : Command) :
    opcodeNumber (assembleOperands op c) = op.number := by
  cases op <;> rfl

/-- The row of R85 of an opcode: its number, its match and its mask. -/
def Opcode.row (op : Opcode) : Nat × Word × Word := (op.number, cmdPattern op, cmdMask op)

/-- The opcodes in the order of R84. -/
def opcodes : List Opcode :=
  [.sendStart, .sendContinue, .sendStop, .sendSingle, .wake, .recvStart, .recvContinue, .recvStop, .recvSingle,
    .crcCalculate, .crcAccumulate]

theorem mem_opcodes (op : Opcode) : op ∈ opcodes := by cases op <;> decide

/-- The rows of R85 are those of the assigned opcodes. -/
theorem cmdRows_eq : cmdRows = opcodes.map Opcode.row := rfl

theorem exists_mem_cmdRows_iff (P : Nat × Word × Word → Prop) : (∃ row ∈ cmdRows, P row) ↔ ∃ op : Opcode, P op.row := by
  simp [cmdRows_eq, mem_opcodes]

/-- The length of `DIN` that R83 gives is the one the decoder checks. -/
theorem dinLength_eq {op : Opcode} {c : Command} (hop : c.cmd.toNat % 16 = op.number) :
    dinLength c = dinExpected op c.cmd c.arg := by
  have hlen : (lenField c.arg).toNat = c.arg.toNat % 65536 := lenField_toNat c.arg
  cases op with
  | sendContinue => cases hz : c.cmd[4] <;> simp [dinLength, hop, Opcode.number, dinExpected, zField, hz, hlen]
  | _ => simp [dinLength, hop, Opcode.number, dinExpected, pField, hlen]

/-- Numbers of the opcodes that R85 restricts `LEN` for. -/
theorem Opcode.number_eq_iff (op : Opcode) :
    (op.number = 3 ↔ op = .sendStop) ∧ (op.number = 5 ↔ op = .wake) ∧ (op.number = 9 ↔ op = .recvSingle) := by
  cases op <;> decide

/-- R86 refuses no legal command and decodes no other: for the opcode of the command's row, the checks of R83 and R85
are the decoder's. -/
theorem legal_iff_decode (c : Command) : Legal c ↔ ∃ i, decode c = .ok i := by
  simp only [decode_eq_ok_iff]
  rw [exists_comm, Legal, exists_mem_cmdRows_iff, ← exists_and_right]
  refine exists_congr fun op => ?_
  simp only [exists_and_left, exists_eq, and_true]
  rw [opcodeOf_eq_some_iff, opcField_toNat, rsvField_eq_zero_iff, lenField_eq_zero_iff, and_assoc]
  refine and_congr_right fun hop => ?_
  have hop : c.cmd.toNat % 16 = op.number := hop
  obtain ⟨hstop, hwake, hsingle⟩ := op.number_eq_iff
  rw [dinLength_eq hop, hop, hstop, hwake, hsingle]
  rfl

/-- A command that decodes is dispatched by its opcode. -/
theorem opcodeNumber_of_decode {c : Command} {i : Instr} (h : decode c = .ok i) :
    opcodeNumber i = c.cmd.toNat % 16 := by
  obtain ⟨op, hop, -, -, -, -, -, rfl⟩ := (decode_eq_ok_iff c i).mp h
  rw [opcodeNumber_assembleOperands, ← (opcodeOf_eq_some_iff _ op).mp hop, opcField_toNat]

end Sys2Proof

namespace Sys2Proof.Machine

open Sys2Proof.Safety

/-! ## Steps -/

/-- Settles O6: the decoder's answer fixes what the step runs. -/
theorem stepRunsDecodedInstruction : Obligations.StepRunsDecodedInstruction := by
  intro s c cs i hp hd
  simp only [step, takeCommand, hp, hd]

/-- What a step does with the command it takes: run the instruction it decodes to, or reject it. -/
theorem step_of_pending {s : State} {c : Command} {cs : List Command} (hp : s.pending = c :: cs) :
    (∃ i, decode c = .ok i ∧ step s = exec i { s with pending := cs }) ∨
    ((¬ ∃ i, decode c = .ok i) ∧ step s = .next (answered .illegalCommand { s with pending := cs })) := by
  cases hd : decode c with
  | ok i => exact .inl ⟨i, rfl, stepRunsDecodedInstruction s c cs i hp hd⟩
  | error e =>
    refine .inr ⟨nofun, ?_⟩
    simp only [step, takeCommand, hp, hd]
    rfl

/-- Settles O3: the legal commands are those that decode, to their opcode's instruction and their operands. -/
theorem decoderDispatchesExactlyLegalCommands : Obligations.DecoderDispatchesExactlyLegalCommands := by
  intro s c cs hp
  rw [legal_iff_decode]
  rcases step_of_pending hp with ⟨i, hd, hstep⟩ | ⟨hd, hstep⟩
  · exact ⟨fun _ => ⟨i, opcodeNumber_of_decode hd, operandsAreTheFields c i hd, hstep⟩, fun hn => absurd ⟨i, hd⟩ hn⟩
  · exact ⟨fun h => absurd h hd, fun _ => hstep⟩

/-- Every command ends by `finish`, which refuses nothing. -/
theorem exec_ne_refused (i : Instr) (s : State) (x : Refusal) : exec i s ≠ .refused x := by
  cases i with
  | crcCalculate len din => rw [exec, execCrcCalculate]; exact finish_ne_refused _ x
  | crcAccumulate len din => rw [exec, execCrcAccumulate]; exact finish_ne_refused _ x
  | _ => exact finish_ne_refused _ x

theorem step_ne_refused (s : State) (x : Refusal) : step s ≠ .refused x := by
  cases hp : s.pending with
  | nil => simp [step, takeCommand, hp]
  | cons c cs =>
    rcases step_of_pending hp with ⟨i, -, hstep⟩ | ⟨-, hstep⟩ <;> rw [hstep]
    · exact exec_ne_refused i _ x
    · exact nofun

theorem FrameEffect.pending {i : Instr} {s u : State} (h : FrameEffect i s u) : u.pending = s.pending := by
  cases h <;> rfl

/-- A command that completes takes no further command and gives one response. -/
theorem Completes.answersOnce {i : Instr} {s t : State} (h : Completes i s t) :
    t.pending = s.pending ∧ ∃ r, t.responses = s.responses ++ [r] := by
  obtain ⟨u, v, r, heff, hbus, rfl⟩ := h
  refine ⟨hbus.onlyBus.pending.trans heff.pending, r, ?_⟩
  rw [State.respond_responses, hbus.onlyBus.responses, heff.responses]

/-- Settles O8: a step that takes a command completes it or rejects it, and either gives one response. -/
theorem stepAnswersOneCommand : Obligations.StepAnswersOneCommand := by
  intro s
  refine ⟨step_ne_refused s, fun t c cs hp h => ?_⟩
  rcases step_of_pending hp with ⟨i, -, hstep⟩ | ⟨-, hstep⟩ <;> rw [hstep] at h
  · exact (exec_completes h).answersOnce
  · cases h
    exact ⟨rfl, _, rfl⟩

end Sys2Proof.Machine

/-! PROOF. The response of a command (30_encoding.md R80, R90; 00_scope.md R14, R15): an error response has its status and
nothing else, and only the commands R90 names set a field of the `OK` one. -/

namespace Sys2Proof.Machine

open Sys2Proof.Safety

/-- What R90 and R14 let the response of a command hold. -/
structure MayAnswer (i : Instr) (r : Response) : Prop where
  error : r.status ≠ .ok → r.result = 0 ∧ r.hdr = 0 ∧ r.dout = []
  result : r.result ≠ 0 → (∃ l d, i = .crcCalculate l d) ∨ (∃ l d, i = .crcAccumulate l d) ∨
    ∃ bus addr, i = .recvSingle bus addr
  hdr : r.hdr ≠ 0 → ∃ bus addr, i = .recvSingle bus addr
  dout : r.dout ≠ [] → (∃ l, i = .recvContinue l) ∨ (∃ l, i = .recvStop l) ∨ ∃ bus addr, i = .recvSingle bus addr

/-- Every command may answer with a status and nothing else, as an error does (R14, R15). -/
theorem mayAnswer_status {i : Instr} {e : Status} : MayAnswer i ⟨e, 0, 0, []⟩ where
  error _ := ⟨rfl, rfl, rfl⟩
  result h := absurd rfl h
  hdr h := absurd rfl h
  dout h := absurd rfl h

/-- A command that returns data may answer it. -/
theorem mayAnswer_dout {i : Instr} (hi : (∃ l, i = .recvContinue l) ∨ ∃ l, i = .recvStop l) (d : List Byte) :
    MayAnswer i (okResponse 0 0 d) where
  error h := absurd rfl h
  result h := absurd rfl h
  hdr h := absurd rfl h
  dout _ := hi.imp_right .inl

/-- A CRC command may answer the complement of its register. -/
theorem mayAnswer_result {i : Instr} (hi : (∃ l d, i = .crcCalculate l d) ∨ ∃ l d, i = .crcAccumulate l d) (r : Half) :
    MayAnswer i (okResponse r 0 []) where
  error h := absurd rfl h
  result _ := hi.imp_right .inl
  hdr h := absurd rfl h
  dout h := absurd rfl h

/-- RECV_SINGLE may answer in every field. -/
theorem mayAnswer_recvSingle (bus addr : Byte) (result : Half) (hdr : Byte) (dout : List Byte) :
    MayAnswer (.recvSingle bus addr) (okResponse result hdr dout) where
  error h := absurd rfl h
  result _ := .inr (.inr ⟨bus, addr, rfl⟩)
  hdr _ := ⟨bus, addr, rfl⟩
  dout _ := .inr (.inr ⟨bus, addr, rfl⟩)

/-! ## The responses a chain of sub-steps can end with -/

/-- Wherever the chain of sub-steps ends with a response, `P` holds of it. -/
def Ran.Gives (P : Response → Prop) (r : Ran Response) : Prop := ∀ x s, r = .ok x s → P x

theorem Ran.gives_ok {P : Response → Prop} {x : Response} (h : P x) (s : State) : (Ran.ok x s).Gives P := by
  rintro _ _ ⟨⟩
  exact h

theorem Ran.gives_raised (P : Response → Prop) (e : Status) (s : State) : (Ran.raised e s).Gives P := nofun

/-- The last sub-step gives the response. -/
theorem Ran.gives_andThen {P : Response → Prop} {α : Type} {r : Ran α} {k : α → State → Ran Response}
    (h : ∀ a s, (k a s).Gives P) : (r.andThen k).Gives P := by
  intro x t hx
  obtain ⟨a, s, -, hk⟩ := Ran.andThen_eq_ok.mp hx
  exact h a s x t hk

/-- A command ends with the response of its chain or with an error response. -/
theorem Ran.Gives.finish {i : Instr} {r : Ran Response} (h : r.Gives (MayAnswer i)) {t : State}
    (ht : Machine.finish r = .next t) : ∃ (v : State) (x : Response), t = v.respond x ∧ MayAnswer i x := by
  rcases finish_eq_next.mp ht with ⟨x, v, hr, rfl⟩ | ⟨e, v, -, rfl⟩
  · exact ⟨v, x, rfl, h x v hr⟩
  · exact ⟨v, _, rfl, mayAnswer_status⟩

/-- The response a command that completes appends. -/
theorem exec_mayAnswer {i : Instr} {s t : State} (h : exec i s = .next t) :
    ∃ (v : State) (x : Response), t = v.respond x ∧ MayAnswer i x := by
  cases i with
  | sendStart bus addr len =>
    refine Ran.Gives.finish ?_ h
    split
    · exact Ran.gives_raised _ _ _
    · exact Ran.gives_ok mayAnswer_status _
  | sendContinue | sendStop | sendSingle | wake =>
    refine Ran.Gives.finish ?_ h
    repeat refine Ran.gives_andThen fun _ _ => ?_
    exact Ran.gives_ok mayAnswer_status _
  | recvStart bus addr len =>
    refine Ran.Gives.finish ?_ h
    split
    · exact Ran.gives_raised _ _ _
    refine Ran.gives_andThen fun _ _ => Ran.gives_andThen fun nd _ => ?_
    split
    · exact Ran.gives_andThen fun _ _ => Ran.gives_ok mayAnswer_status _
    · exact Ran.gives_andThen fun _ _ => Ran.gives_raised _ _ _
  | recvContinue len =>
    refine Ran.Gives.finish ?_ h
    exact Ran.gives_andThen fun _ _ => Ran.gives_andThen fun d _ => Ran.gives_ok (mayAnswer_dout (.inl ⟨len, rfl⟩) d) _
  | recvStop len =>
    refine Ran.Gives.finish ?_ h
    exact Ran.gives_andThen fun _ _ => Ran.gives_andThen fun d _ => Ran.gives_ok (mayAnswer_dout (.inr ⟨len, rfl⟩) d) _
  | recvSingle bus addr =>
    refine Ran.Gives.finish ?_ h
    refine Ran.gives_andThen fun _ _ => Ran.gives_andThen fun _ _ => Ran.gives_andThen fun b _ => ?_
    split
    · exact Ran.gives_raised _ _ _
    · exact Ran.gives_andThen fun _ _ => Ran.gives_ok (mayAnswer_recvSingle _ _ _ _ _) _
  | crcCalculate len din =>
    cases h
    exact ⟨_, _, rfl, mayAnswer_result (.inl ⟨len, din, rfl⟩) _⟩
  | crcAccumulate len din =>
    cases h
    exact ⟨_, _, rfl, mayAnswer_result (.inr ⟨len, din, rfl⟩) _⟩

/-- Settles O38: the one response a completed command appends is one the command may answer. -/
theorem responseFieldsSet : Obligations.ResponseFieldsSet := by
  intro i s t h
  obtain ⟨-, r, hr⟩ := (exec_completes h).answersOnce
  obtain ⟨v, x, rfl, hx⟩ := exec_mayAnswer h
  obtain ⟨-, rfl⟩ : v.responses = s.responses ∧ x = r := by simpa using hr
  exact ⟨x, hr, hx.error, hx.result, hx.hdr, hx.dout⟩

end Sys2Proof.Machine

/-! PROOF. SEND_FRAME (30_encoding.md R92): its two commands, issued by a host that stops at the first error, declare a
frame of the data's length (41_transmit.md R131) and send the data as its only element (R137, R140). -/

namespace Sys2Proof.Machine

open Sys2Proof.Safety

/-! ## Issuing a command -/

/-- A host that issues the words of a well-formed instruction has that instruction run. -/
theorem step_issue_encode {i : Instr} (hwf : i.wellFormed = true) (s : State) :
    step (s.issue (encode i)) = exec i s :=
  stepRunsDecodedInstruction _ _ s.pending i rfl (decodeReadsEncodeBack i hwf)

@[simp] theorem answeredOk_answered (e : Status) (s : State) : answeredOk (answered e s) = (e == .ok) := by
  simp [answeredOk]

/-- After an `OK` the host issues the next command. -/
theorem runWhileOk_encode {i : Instr} (hwf : i.wellFormed = true) {s t : State} (h : exec i s = .next (answered .ok t))
    (cs : List Command) : runWhileOk (encode i :: cs) s = runWhileOk cs (answered .ok t) := by
  simp [runWhileOk, step_issue_encode hwf, h]

/-! ## The two commands of the expansion -/

/-- A length that fits the field is the one the field holds. -/
theorem lenOf_eq_some {data : List Byte} {len : Half} (h : lenOf data = some len) : len.toNat = data.length := by
  unfold lenOf at h
  split at h
  · cases h
    exact Nat.mod_eq_of_lt ‹_›
  · cases h

/-- The commands SEND_FRAME expands to. -/
theorem sendFrame_commands {bus addr : Byte} {data : List Byte} {forms : List Asm} {cmds : List Command}
    (hforms : (Pseudo.sendFrame bus addr data).expand = some forms) (hcmds : assembleAll forms = some cmds) :
    ∃ len : Half, len.toNat = data.length ∧
      cmds = [encode (.sendStart bus addr len), encode (.sendStop true bus addr len data)] := by
  obtain ⟨len, hlen, rfl⟩ := Option.map_eq_some_iff.mp hforms
  refine ⟨len, lenOf_eq_some hlen, ?_⟩
  simpa [assembleAll, Asm.assemble, hlen, eq_comm] using hcmds

/-- A SEND_START within the capacity declares the frame. -/
theorem execSendStart_ok (bus addr : Byte) {len : Half} {s : State} (h : len.toNat ≤ s.params.txCapacity) :
    execSendStart bus addr len s = .next (answered .ok (startAssembling len s)) := by
  rw [execSendStart, if_neg (by omega)]
  rfl

/-- A string written is read back. -/
theorem Memory.readBytes_writeBytes (m : Memory) (o : Nat) (bs : List Byte) :
    (m.writeBytes o bs).readBytes o bs.length = some bs :=
  Memory.readBytes_eq_some_iff.mpr ⟨rfl, fun k hk => by
    rw [Memory.readByte_writeBytes_inside hk, List.getElem?_eq_getElem hk]⟩

/-- An append that fits the frame and the buffer succeeds. -/
theorem appendFrame_ok {len : Half} {bs : List Byte} {s : State} (hfit : s.txOff.toNat + len.toNat ≤ s.txLen.toNat)
    (hcells : s.hasCells .tx s.txOff.toNat bs.length) : appendFrame len bs s = .ok () (s.appended len bs) := by
  rw [appendFrame, if_neg (by omega), memWrite_ok hcells]
  rfl

/-- A write answered with the count asked for succeeds. -/
theorem writeFully_ok {bs : List Byte} {want : Nat} {s : State} (h : writeReply bs s = .ok want) :
    writeFully bs want s = .ok () (s.tookWrite.record (.evWrite bs (.count want))) := by
  simp [writeFully, writeRaw, h, requireCount]

/-- A SEND_STOP whose final element fits the frame, whose bus handle succeeds and whose write is answered in full. -/
theorem execSendStop_final_ok {bus addr : Byte} {len : Half} {din bs : List Byte} {s v : State}
    (ha : s.txState = .assembling) (hfit : s.txOff.toNat + len.toNat ≤ s.txLen.toNat)
    (hcells : s.hasCells .tx s.txOff.toNat din.length) (hcon : connect bus addr (s.closed true len din) = .ok () v)
    (hframe : v.hasCells .tx 0 v.txOff.toNat) (hbs : v.txb.readBytes 0 v.txOff.toNat = some bs)
    (hwrite : writeReply bs v = .ok v.txOff.toNat) :
    execSendStop true bus addr len din s =
      .next (answered .ok (v.tookWrite.record (.evWrite bs (.count v.txOff.toNat)))) := by
  have happend : appendFrame len din (endAssembling s) = .ok () (s.closed true len din) := appendFrame_ok hfit hcells
  simp only [execSendStop, requireAssembling, ha, if_true, Ran.andThen_ok, happend, hcon, memRead_ok hframe hbs,
    writeFully_ok hwrite, finish_ok]
  rfl

/-- The state in which SEND_FRAME's SEND_STOP uses the bus, when its SEND_START began in `s`. -/
def frameClosed (len : Half) (data : List Byte) (s : State) : State :=
  (answered .ok (startAssembling len s)).closed true len data

theorem leavesBus_frameClosed (len : Half) (data : List Byte) : LeavesBus (frameClosed len data) := fun _ _ => rfl

/-- The frame is the data, from the first cell on. -/
theorem frameClosed_frame {len : Half} {data : List Byte} (hlen : len.toNat = data.length) (s : State) :
    (frameClosed len data s).txOff.toNat = data.length ∧
      (frameClosed len data s).txb.readBytes 0 data.length = some data :=
  ⟨by simp [frameClosed, State.closed, startAssembling, endAssembling, hlen],
    Memory.readBytes_writeBytes s.txb 0 data⟩

/-- The commands before the bus handle leave the bus, so it succeeds as it does in the state SEND_FRAME began in. -/
theorem connect_frameClosed {bus addr : Byte} {s v : State} (len : Half) (data : List Byte)
    (h : connect bus addr s = .ok () v) :
    connect bus addr (frameClosed len data s) = .ok () (frameClosed len data v) := by
  have hlift := connect_liftsTo (leavesBus_frameClosed len data) bus addr s
  rwa [h] at hlift

/-- The SEND_STOP of SEND_FRAME, run after its SEND_START, sends the data. -/
theorem execSendStop_sendFrame {bus addr : Byte} {len : Half} {data : List Byte} {s v : State}
    (hlen : len.toNat = data.length) (hcap : data.length ≤ s.params.txCapacity) (hcon : connect bus addr s = .ok () v)
    (hwrite : writeReply data v = .ok data.length) :
    execSendStop true bus addr len data (answered .ok (startAssembling len s)) =
      .next (answered .ok ((frameClosed len data v).tookWrite.record (.evWrite data (.count data.length)))) := by
  obtain ⟨hbus, -, -, -, -⟩ := connect_eq_ok hcon
  obtain ⟨hoff, hread⟩ := frameClosed_frame hlen v
  have hcapv : data.length ≤ (frameClosed len data v).params.txCapacity := by simpa [frameClosed, hbus.params] using hcap
  have h := execSendStop_final_ok (s := answered .ok (startAssembling len s)) (din := data) (bs := data) rfl
    (by simp [startAssembling]) (.inr (by simpa [startAssembling] using hcap)) (connect_frameClosed len data hcon)
    (.inr (by simpa [hoff] using hcapv)) (by rw [hoff]; exact hread) (by rw [hoff]; exact hwrite)
  rwa [hoff] at h

/-- Settles O56: the first command declares a frame the data fills; the second puts the data in it and sends it. -/
theorem sendFrameSendsData : Obligations.SendFrameSendsData := by
  intro bus addr data forms cmds s s1 s2 hforms hcmds hcap hcon ⟨hreply, hs2⟩
  obtain ⟨len, hlen, rfl⟩ := sendFrame_commands hforms hcmds
  obtain ⟨hbus, -, -, -, -⟩ := connect_eq_ok hcon
  have hwrite : writeReply data s1 = .ok data.length := by
    rcases hreply with ⟨-, hc⟩ | ⟨n, hn, hc⟩
    · cases hc
    · cases hc
      exact hn
  have hstart : exec (.sendStart bus addr len) s = _ := execSendStart_ok bus addr (hlen.trans_le hcap)
  have hstop : exec (.sendStop true bus addr len data) _ = _ := execSendStop_sendFrame hlen hcap hcon hwrite
  have hwf : (Instr.sendStop true bus addr len data).wellFormed = true := by
    simp [Instr.wellFormed, dinFills, hlen]
  have hrun := (runWhileOk_encode rfl hstart [encode (.sendStop true bus addr len data)]).trans
    (runWhileOk_encode hwf hstop [])
  exact ⟨_, hrun, by rw [hs2]; rfl, by simp [frameClosed, hbus.responses], by simp [frameClosed]⟩

end Sys2Proof.Machine

/-! PROOF. The bus handle (40_bus_handle.md R110, R111, R115): when opening, addressing and the two together succeed, in
which state, and what a refusal of either raises. -/

namespace Sys2Proof.Machine

open Sys2Proof.Safety

/-! ## Opening -/

/-- A sub-step known to succeed in `u`, and why: it succeeds in `t` exactly where `t` is `u`. -/
theorem Ran.ok_eq_ok_iff_and {P : Prop} (hp : P) {u t : State} : Ran.ok () u = .ok () t ↔ P ∧ t = u := by
  simp [hp, eq_comm]

theorem afterOpen_of_open (bus : Byte) {s : State} (h : s.busOpen = true) : afterOpen bus s = s := if_pos h

theorem afterOpen_of_closed (bus : Byte) {s : State} (h : s.busOpen = false) :
    afterOpen bus s = { s with
      busOpen := true
      answers := { s.answers with opens := s.answers.opens.tail }
      trace := s.trace ++ [.evOpen bus .ok] } := if_neg (by simp [h])

/-- `EnsureOpen` succeeds exactly where the bus is open or its open is answered `OK`. -/
theorem ensureOpen_eq_ok_iff {bus : Byte} {s t : State} :
    ensureOpen bus s = .ok () t ↔ Opens bus s ∧ t = afterOpen bus s := by
  rcases ensureOpen_cases bus s with ⟨ho, e⟩ | ⟨ho, hr, e⟩ | ⟨ho, hr, e⟩ | ⟨ho, hr, e⟩ <;> rw [e]
  · rw [afterOpen_of_open bus ho]
    exact Ran.ok_eq_ok_iff_and (.inl ho)
  · simp [ho, hr]
  · simp [ho, hr]
  · rw [afterOpen_of_closed bus ho]
    exact Ran.ok_eq_ok_iff_and (.inr hr)

/-- An open answered `ERR` is recorded, leaves the bus closed and raises `BUS_OPEN_ERROR`. -/
theorem ensureOpen_of_refused {bus : Byte} {s : State} (ho : s.busOpen = false) (hr : openReply bus s = .err) :
    ensureOpen bus s = .raised .busOpenError { s with
      answers := { s.answers with opens := s.answers.opens.tail }
      trace := s.trace ++ [.evOpen bus .err] } := by
  rw [ensureOpen, if_neg (by simp [ho]), callOpen, hr]
  rfl

/-- Settles O9, from the three answered outcomes of `EnsureOpen`. -/
theorem ensureOpenOpensOnce : Obligations.EnsureOpenOpensOnce := fun bus _ =>
  ⟨fun ho => ensureOpen_eq_ok_iff.mpr ⟨.inl ho, (afterOpen_of_open bus ho).symm⟩,
    fun ho hr => ensureOpen_eq_ok_iff.mpr ⟨.inr hr, (afterOpen_of_closed bus ho).symm⟩, ensureOpen_of_refused⟩

/-! ## Addressing -/

theorem afterSetAddr_of_cached {addr : Byte} {s : State} (h : AddressCached addr s) : afterSetAddr addr s = s := if_pos h

theorem afterSetAddr_of_not_cached {addr : Byte} {s : State} (h : ¬ AddressCached addr s) :
    afterSetAddr addr s = { s with
      curAddr := addr
      curAddrValid := true
      answers := { s.answers with setAddrs := s.answers.setAddrs.tail }
      trace := s.trace ++ [.evSetAddr addr .ok] } := if_neg h

/-- `EnsureAddressed` succeeds exactly where the address is cached or its set-address is answered `OK`. -/
theorem ensureAddressed_eq_ok_iff {addr : Byte} {s t : State} :
    ensureAddressed addr s = .ok () t ↔
      (AddressCached addr s ∨ setAddrReply addr s = .ok ()) ∧ t = afterSetAddr addr s := by
  rcases ensureAddressed_cases addr s with ⟨hc, e⟩ | ⟨hc, hr, e⟩ | ⟨hc, hr, e⟩ | ⟨hc, hr, e⟩ <;> rw [e]
  · rw [afterSetAddr_of_cached hc]
    exact Ran.ok_eq_ok_iff_and (.inl hc)
  · simp [hc, hr]
  · simp [hc, hr]
  · rw [afterSetAddr_of_not_cached hc]
    exact Ran.ok_eq_ok_iff_and (.inr hr)

/-- A set-address answered `ERR` is recorded, leaves no address cached and raises `BUS_ADDRESS_ERROR`. -/
theorem ensureAddressed_of_refused {addr : Byte} {s : State} (hc : ¬ AddressCached addr s)
    (hr : setAddrReply addr s = .err) :
    ensureAddressed addr s = .raised .busAddressError { s with
      curAddrValid := false
      answers := { s.answers with setAddrs := s.answers.setAddrs.tail }
      trace := s.trace ++ [.evSetAddr addr .err] } := by
  rw [ensureAddressed, if_neg hc, callSetAddr, hr]
  rfl

/-- Settles O10, from the three answered outcomes of `EnsureAddressed`. -/
theorem ensureAddressedCaches : Obligations.EnsureAddressedCaches := fun _ _ =>
  ⟨fun hc => ensureAddressed_eq_ok_iff.mpr ⟨.inl hc, (afterSetAddr_of_cached hc).symm⟩,
    fun hc hr => ensureAddressed_eq_ok_iff.mpr ⟨.inr hr, (afterSetAddr_of_not_cached hc).symm⟩,
    ensureAddressed_of_refused⟩

/-! ## Opening, then addressing -/

/-- Opening the bus neither caches an address nor drops one. -/
theorem addressCached_afterOpen (bus addr : Byte) (s : State) :
    AddressCached addr (afterOpen bus s) ↔ AddressCached addr s := by
  unfold afterOpen
  split <;> rfl

/-- A bus handle succeeds exactly where its open succeeds and then its set-address does. -/
theorem connect_eq_ok_iff {bus addr : Byte} {s t : State} :
    connect bus addr s = .ok () t ↔
      Opens bus s ∧ (AddressCached addr s ∨ setAddrReply addr (afterOpen bus s) = .ok ()) ∧
        t = afterSetAddr addr (afterOpen bus s) := by
  rw [connect, Ran.andThen_eq_ok, ← addressCached_afterOpen bus]
  constructor
  · rintro ⟨⟨⟩, u, hopen, haddr⟩
    obtain ⟨ho, rfl⟩ := ensureOpen_eq_ok_iff.mp hopen
    exact ⟨ho, ensureAddressed_eq_ok_iff.mp haddr⟩
  · rintro ⟨ho, haddr⟩
    exact ⟨(), _, ensureOpen_eq_ok_iff.mpr ⟨ho, rfl⟩, ensureAddressed_eq_ok_iff.mpr haddr⟩

/-- A bus handle whose open raises ends there. -/
theorem connect_of_ensureOpen_raised {bus : Byte} (addr : Byte) {e : Status} {s t : State}
    (h : ensureOpen bus s = .raised e t) : connect bus addr s = .raised e t := by
  rw [connect, h, Ran.andThen_raised]

/-- A bus handle whose open succeeds ends as its set-address does. -/
theorem connect_of_opens {bus : Byte} (addr : Byte) {s : State} (h : Opens bus s) :
    connect bus addr s = ensureAddressed addr (afterOpen bus s) := by
  rw [connect, ensureOpen_eq_ok_iff.mpr ⟨h, rfl⟩, Ran.andThen_ok]

/-- Settles O58: a bus handle is an open and then, in the state the open leaves, a set-address. -/
theorem busHandleOutcomes : Obligations.BusHandleOutcomes := by
  refine fun bus addr s => ⟨fun _ => connect_eq_ok_iff, fun ho hr => ?_, fun ho hc hr => ?_⟩
  · exact connect_of_ensureOpen_raised addr (ensureOpen_of_refused ho hr)
  · rw [connect_of_opens addr ho]
    exact ensureAddressed_of_refused (mt (addressCached_afterOpen bus addr s).mp hc) hr

end Sys2Proof.Machine

/-! PROOF. The six commands without a bus handle (40_bus_handle.md R116): their frame effects leave the bus fields alone,
and no sub-step of theirs waits for the bus environment. -/

namespace Sys2Proof.Machine

open Sys2Proof.Safety

theorem FrameEffect.sameHandle {i : Instr} {s u : State} (h : FrameEffect i s u) : SameHandle s u := by
  cases h <;> exact ⟨rfl, rfl, rfl⟩

theorem FrameEffect.noBus {i : Instr} {s u : State} (h : FrameEffect i s u) : NoBus s u := by
  cases h <;> exact ⟨rfl, rfl⟩

/-- A sub-step that is never stuck on an unanswered bus call. -/
def Ran.NeverStuck {α : Type} (r : Ran α) : Prop := ∀ u c, r ≠ .stopped (.stuck u c)

theorem Ran.neverStuck_ok {α : Type} (a : α) (s : State) : (Ran.ok a s).NeverStuck := nofun

/-- Sub-steps that are never stuck are never stuck together. -/
theorem Ran.NeverStuck.andThen {α β : Type} {r : Ran α} {k : α → State → Ran β} (hr : r.NeverStuck)
    (hk : ∀ a s, (k a s).NeverStuck) : (r.andThen k).NeverStuck := by
  intro u c h
  rcases Ran.andThen_eq_stopped.mp h with h | ⟨a, s, -, h⟩
  · exact hr u c h
  · exact hk a s u c h

/-- A command whose sub-steps are never stuck is never stuck. -/
theorem Ran.NeverStuck.finish {r : Ran Response} (h : r.NeverStuck) (u : State) (c : BusCall) :
    Machine.finish r ≠ .fault (.stuck u c) := fun hf => h u c (finish_eq_fault.mp hf)

theorem requireAssembling_neverStuck (s : State) : (requireAssembling s).NeverStuck := by
  unfold requireAssembling
  split <;> nofun

theorem requireFilled_neverStuck (s : State) : (requireFilled s).NeverStuck := by
  unfold requireFilled
  split <;> nofun

theorem appendFrame_neverStuck (len : Half) (bs : List Byte) (s : State) : (appendFrame len bs s).NeverStuck := by
  rcases appendFrame_cases len bs s with ⟨-, e⟩ | ⟨-, -, e⟩ | ⟨-, -, e⟩ <;> rw [e] <;> nofun

theorem frameBytes_neverStuck (len : Half) (s : State) : (frameBytes len s).NeverStuck := by
  rcases frameBytes_cases len s with ⟨-, e⟩ | ⟨-, d, -, e⟩ | ⟨-, -, e⟩ | ⟨-, -, e⟩ <;> rw [e] <;> nofun

/-- A command without a bus handle never waits for the bus. -/
theorem exec_ne_stuck_of_busFields_none {i : Instr} (hi : busFields i = none) (s u : State) (c : BusCall) :
    exec i s ≠ .fault (.stuck u c) := by
  cases i with
  | sendStart bus addr len =>
    refine Ran.NeverStuck.finish ?_ u c
    split <;> nofun
  | sendContinue z len din =>
    exact ((requireAssembling_neverStuck s).andThen fun _ s =>
      (appendFrame_neverStuck len _ s).andThen fun _ s => Ran.neverStuck_ok _ s).finish u c
  | recvContinue len =>
    exact ((requireFilled_neverStuck s).andThen fun _ s =>
      (frameBytes_neverStuck len s).andThen fun _ _ => Ran.neverStuck_ok _ _).finish u c
  | recvStop len =>
    exact ((requireFilled_neverStuck s).andThen fun _ s =>
      (frameBytes_neverStuck len s).andThen fun _ _ => Ran.neverStuck_ok _ _).finish u c
  | crcCalculate | crcAccumulate => nofun
  | sendStop | sendSingle | wake | recvStart | recvSingle => cases hi

/-- Settles O12: the six commands answer with a frame effect and a response, and are never stuck. -/
theorem sixCommandsNeverTouchTheBus : Obligations.SixCommandsNeverTouchTheBus := by
  refine fun i s hi => ⟨fun t h => ?_, exec_ne_stuck_of_busFields_none hi s⟩
  obtain ⟨u, r, hu, rfl⟩ := exec_next_of_busFields_none hi h
  exact ⟨hu.sameHandle, hu.noBus⟩

end Sys2Proof.Machine

/-! PROOF. The order of a bus command's events (40_bus_handle.md R115): those of its bus handle, and only after a handle
that succeeded those of its transfers. -/

namespace Sys2Proof.Machine

open Sys2Proof.Safety

/-- The trace `after` is `before` with at least one transfer or delay event added, and nothing else. -/
def AddsTransfers (before after : List Event) : Prop :=
  ∃ tr, tr ≠ [] ∧ (∀ e ∈ tr, isTransfer e = true) ∧ after = before ++ tr

theorem AddsTransfers.one {e : Event} (he : isTransfer e = true) (l : List Event) : AddsTransfers l (l ++ [e]) :=
  ⟨[e], List.cons_ne_nil _ _, fun _ h => List.mem_singleton.mp h ▸ he, rfl⟩

theorem AddsTransfers.more {l m : List Event} {e : Event} (h : AddsTransfers l m) (he : isTransfer e = true) :
    AddsTransfers l (m ++ [e]) := by
  obtain ⟨tr, hne, hall, rfl⟩ := h
  refine ⟨tr ++ [e], by simp, fun x hx => ?_, List.append_assoc _ _ _⟩
  rcases List.mem_append.mp hx with hx | hx
  · exact hall x hx
  · exact List.mem_singleton.mp hx ▸ he

/-- From `s` to `t` the trace grew by the events of a bus handle that failed, or by those of one that succeeded and then
transfers. -/
def HandleThenTransfers (bus addr : Byte) (s t : State) : Prop :=
  (∃ evs ∈ handleFailures bus addr s, t.trace = s.trace ++ evs) ∨
    AddsTransfers (s.trace ++ handleEvents bus addr s) t.trace

theorem HandleThenTransfers.of_raised {bus addr : Byte} {e : Status} {s v : State}
    (h : connect bus addr s = .raised e v) (x : Status) : HandleThenTransfers bus addr s (answered x v) := by
  obtain ⟨-, hevs, -, -, -, -⟩ := connect_eq_raised h
  exact .inl hevs

theorem HandleThenTransfers.of_ok {bus addr : Byte} {s v t : State} (h : connect bus addr s = .ok () v)
    (ht : AddsTransfers v.trace t.trace) : HandleThenTransfers bus addr s t := by
  obtain ⟨-, htrace, -, -, -⟩ := connect_eq_ok h
  exact .inr (htrace ▸ ht)

/-- What SEND_STOP does before its bus handle leaves the handle's choices and the trace as they were. -/
theorem HandleThenTransfers.of_closed {bus addr : Byte} {p : Bool} {len : Half} {din : List Byte} {s t : State}
    (h : HandleThenTransfers bus addr (s.closed p len din) t) : HandleThenTransfers bus addr s t := by
  simpa [HandleThenTransfers, handleFailures, handleEvents] using h

/-- What R115 says of the trace of a bus command: no event where it fails a check of its own, else the events of its bus
handle and its transfers. -/
def EventsInOrder (i : Instr) (bus addr : Byte) (s t : State) : Prop :=
  (failsOwnChecks i s → t.trace = s.trace) ∧ (¬ failsOwnChecks i s → HandleThenTransfers bus addr s t)

theorem EventsInOrder.of_fails {i : Instr} {bus addr : Byte} {s t : State} (h : failsOwnChecks i s)
    (ht : t.trace = s.trace) : EventsInOrder i bus addr s t := ⟨fun _ => ht, absurd h⟩

theorem EventsInOrder.of_passes {i : Instr} {bus addr : Byte} {s t : State} (h : ¬ failsOwnChecks i s)
    (ht : HandleThenTransfers bus addr s t) : EventsInOrder i bus addr s t := ⟨fun h' => absurd h' h, fun _ => ht⟩

theorem execSendStop_eventsInOrder {p : Bool} {bus addr : Byte} {len : Half} {din : List Byte} {s t : State}
    (h : execSendStop p bus addr len din s = .next t) : EventsInOrder (.sendStop p bus addr len din) bus addr s t := by
  rcases execSendStop_next h with ⟨ha, rfl⟩ | ⟨-, hp, hlen, rfl⟩ | ⟨ha, hfit, hcon⟩
  · exact .of_fails (.inl ha) rfl
  · exact .of_fails (.inr ⟨hp, hlen⟩) rfl
  have hpass : ¬ failsOwnChecks (.sendStop p bus addr len din) s := by
    rintro (hna | ⟨hp, hlen⟩)
    · exact hna ha
    · exact Nat.not_lt.mpr (hfit hp).1 hlen
  refine .of_passes hpass (.of_closed (p := p) (len := len) (din := din) ?_)
  rcases hcon with ⟨e, v, hcon, rfl⟩ | ⟨v, bs, c, hcon, -, rfl⟩
  · exact .of_raised hcon e
  · exact .of_ok hcon (.one rfl _)

theorem execSendSingle_handleThenTransfers {bus addr : Byte} {len : Half} {din : List Byte} {s t : State}
    (h : execSendSingle bus addr len din s = .next t) : HandleThenTransfers bus addr s t := by
  rcases execSendSingle_next h with ⟨e, v, hcon, rfl⟩ | ⟨v, c, hcon, rfl⟩
  · exact .of_raised hcon e
  · exact .of_ok hcon (.one rfl _)

theorem execWake_handleThenTransfers {bus addr : Byte} {s t : State} (h : execWake bus addr s = .next t) :
    HandleThenTransfers bus addr s t := by
  rcases execWake_next h with ⟨e, v, hcon, rfl⟩ | ⟨v, hcon, ⟨c, -, rfl⟩ | rfl⟩
  · exact .of_raised hcon e
  · exact .of_ok hcon (.one rfl _)
  · exact .of_ok hcon (.more (.one rfl _) rfl)

theorem execRecvStart_eventsInOrder {bus addr : Byte} {len : Half} {s t : State}
    (h : execRecvStart bus addr len s = .next t) : EventsInOrder (.recvStart bus addr len) bus addr s t := by
  rcases execRecvStart_next h with ⟨hlen, rfl⟩ | ⟨hlen, hcon⟩
  · exact .of_fails hlen rfl
  refine .of_passes (Nat.not_lt.mpr hlen) ?_
  rcases hcon with ⟨e, v, hcon, rfl⟩ | ⟨v, hcon, ⟨d, -, rfl⟩ | ⟨c, d, b, -, -, rfl⟩⟩
  · exact .of_raised hcon e
  · exact .of_ok hcon (.one rfl _)
  · exact .of_ok hcon (.one rfl _)

/-- RECV_SINGLE: one, two or three reads follow a bus handle that succeeded. -/
theorem execRecvSingle_handleThenTransfers {bus addr : Byte} {s t : State} (h : execRecvSingle bus addr s = .next t) :
    HandleThenTransfers bus addr s t := by
  rcases execRecvSingle_next h with ⟨e, v, hcon, rfl⟩ | ⟨v, hcon, hv⟩
  · exact .of_raised hcon e
  refine .of_ok hcon ?_
  rcases hv with ⟨c, d, -, rfl⟩ | ⟨d1, -, ⟨c, d, -, rfl⟩ | ⟨b, -, ⟨-, rfl⟩ | ⟨-, ⟨c, d, -, rfl⟩ | ⟨q, -, rfl⟩⟩⟩⟩
  · exact .one rfl _
  · exact .more (.one rfl _) rfl
  · exact .more (.one rfl _) rfl
  · exact .more (.more (.one rfl _) rfl) rfl
  · exact .more (.more (.one rfl _) rfl) rfl

/-- A bus command's events are in the order of R115. -/
theorem exec_eventsInOrder {i : Instr} {bus addr : Byte} {s t : State} (hi : busFields i = some (bus, addr))
    (h : exec i s = .next t) : EventsInOrder i bus addr s t := by
  cases i with
  | sendStop p bus addr len din => cases hi; exact execSendStop_eventsInOrder h
  | sendSingle bus addr len din => cases hi; exact .of_passes id (execSendSingle_handleThenTransfers h)
  | wake bus addr => cases hi; exact .of_passes id (execWake_handleThenTransfers h)
  | recvStart bus addr len => cases hi; exact execRecvStart_eventsInOrder h
  | recvSingle bus addr => cases hi; exact .of_passes id (execRecvSingle_handleThenTransfers h)
  | sendStart | sendContinue | recvContinue | recvStop | crcCalculate | crcAccumulate => cases hi

/-- Settles O11, command by command. -/
theorem busEventsInOrder : Obligations.BusEventsInOrder := fun _ _ _ _ _ hi h => exec_eventsInOrder hi h

end Sys2Proof.Machine

/-! PROOF. The transmit commands without the bus: what SEND_START declares (41_transmit.md R131, R132, R143), what
SEND_CONTINUE appends (R134 to R136), and how SEND_STOP ends when it fails a check of its own (R137, R138). -/

namespace Sys2Proof.Machine

open Sys2Proof.Safety

/-! ## The words of a command -/

/-- The command word of an instruction matches the row of R85 of its opcode. -/
theorem encode_cmd_and_cmdMask (i : Instr) : (encode i).cmd &&& cmdMask i.opcode = cmdPattern i.opcode := by
  obtain ⟨op, hop, hmask, -⟩ := rowBits i
  obtain rfl : i.opcode = op := Option.some.inj ((opcodeOf_encode i).symm.trans hop)
  exact hmask

/-! ## SEND_START -/

theorem execSendStart_overflow (bus addr : Byte) {len : Half} {s : State} (h : s.params.txCapacity < len.toNat) :
    execSendStart bus addr len s = .next (answered .bufferOverflow s) := by
  rw [execSendStart, if_pos h]
  rfl

/-- Settles O14: SEND_START has one check, the capacity, and looks at no register. -/
theorem sendStartDeclaresFrame : Obligations.SendStartDeclaresFrame := fun bus addr len _ =>
  ⟨⟨encode_cmd_and_cmdMask (.sendStart bus addr len), rfl⟩, execSendStart_ok bus addr, execSendStart_overflow bus addr⟩

/-! ## Appending -/

theorem appendFrame_overflow {len : Half} (bs : List Byte) {s : State}
    (h : s.txLen.toNat < s.txOff.toNat + len.toNat) : appendFrame len bs s = .raised .bufferOverflow s := if_pos h

/-- A store puts its bytes in its cells and leaves every other cell. -/
theorem stored_writeBytes (m : Memory) (o : Nat) (bs : List Byte) : Stored m (m.writeBytes o bs) o bs :=
  ⟨fun k hk => by rw [Memory.readByte_writeBytes_inside hk, List.getElem?_eq_getElem hk],
    fun _ ha => Memory.readByte_writeBytes_outside ha⟩

/-- Cells that an append of `LEN` bytes writes lie in `TXB` when they lie in a frame within its capacity. -/
theorem hasCells_of_fits {len : Half} {bs : List Byte} {s : State} (hbs : bs.length = len.toNat)
    (hfit : s.txOff.toNat + len.toNat ≤ s.txLen.toNat) (hcap : s.txLen.toNat ≤ s.params.txCapacity) :
    s.hasCells .tx s.txOff.toNat bs.length :=
  .inr (by rw [hbs]; exact hfit.trans hcap)

/-! ## SEND_CONTINUE -/

theorem execSendContinue_of_not_assembling (z : Bool) (len : Half) (din : List Byte) {s : State}
    (h : s.txState ≠ .assembling) : execSendContinue z len din s = .next (answered .sequenceError s) := by
  rw [execSendContinue, requireAssembling, if_neg h]
  rfl

theorem execSendContinue_overflow (z : Bool) {len : Half} (din : List Byte) {s : State} (ha : s.txState = .assembling)
    (h : s.txLen.toNat < s.txOff.toNat + len.toNat) :
    execSendContinue z len din s = .next (answered .bufferOverflow s) := by
  rw [execSendContinue, requireAssembling, if_pos ha, Ran.andThen_ok, appendFrame_overflow _ h]
  rfl

theorem execSendContinue_ok {z : Bool} {len : Half} {din : List Byte} {s : State} (ha : s.txState = .assembling)
    (hfit : s.txOff.toNat + len.toNat ≤ s.txLen.toNat)
    (hcells : s.hasCells .tx s.txOff.toNat (continueBytes z len din).length) :
    execSendContinue z len din s = .next (answered .ok (s.appended len (continueBytes z len din))) := by
  rw [execSendContinue, requireAssembling, if_pos ha, Ran.andThen_ok, appendFrame_ok hfit hcells]
  rfl

/-- Settles O15: the state check, then the exact sum against `TX_LEN`, then the store at `TX_OFF`. -/
theorem sendContinueAppends : Obligations.SendContinueAppends := by
  refine fun z len din s hwf => ⟨encode_cmd_and_cmdMask (.sendContinue z len din),
    execSendContinue_of_not_assembling z len din, execSendContinue_overflow z din, fun ha hfit hcap => ?_⟩
  have hcells := hasCells_of_fits (continueBytes_length hwf) hfit hcap
  exact ⟨_, _, toNat_add_of_le hfit, stored_writeBytes _ _ _, execSendContinue_ok ha hfit hcells⟩

/-! ## SEND_STOP that fails its own checks -/

theorem execSendStop_of_not_assembling (p : Bool) (bus addr : Byte) (len : Half) (din : List Byte) {s : State}
    (h : s.txState ≠ .assembling) : execSendStop p bus addr len din s = .next (answered .sequenceError s) := by
  rw [execSendStop, requireAssembling, if_neg h]
  rfl

/-- Settles O57: the state check comes first and reads nothing else. -/
theorem sendStopOutsideAssembling : Obligations.SendStopOutsideAssembling := fun p bus addr len din _ =>
  ⟨encode_cmd_and_cmdMask (.sendStop p bus addr len din), execSendStop_of_not_assembling p bus addr len din⟩

/-- Settles O18: the frame is ended before the final element is checked, and the check fails before any write. -/
theorem sendStopOverflowSendsNothing : Obligations.SendStopOverflowSendsNothing := by
  intro bus addr len din s ha hover
  have happend : appendFrame len din (endAssembling s) = .raised .bufferOverflow (endAssembling s) :=
    appendFrame_overflow din hover
  rw [exec, execSendStop, requireAssembling, if_pos ha, Ran.andThen_ok, if_pos rfl, happend]
  rfl

end Sys2Proof.Machine

/-! PROOF. The transmit commands on the bus: a bus handle that raises, or the one write of SEND_STOP's frame
(41_transmit.md R137, R140), of SEND_SINGLE's data (R144) and of WAKE's zero byte (R147, R148). -/

namespace Sys2Proof.Machine

open Sys2Proof.Safety

/-! ## One write -/

/-- A write that is answered goes on exactly when the count is the one wanted. -/
theorem writeFully_of_writesWith {bs : List Byte} {c : Count} {s t : State} (h : WritesWith bs c s t) (want : Nat) :
    writeFully bs want s = if c = .count want then .ok () t else .raised .busWriteError t := by
  obtain ⟨⟨hr, rfl⟩ | ⟨n, hr, rfl⟩, rfl⟩ := h <;> rw [writeFully, writeRaw, hr] <;> rfl

/-- A command whose last sub-step is a write answers with what the count says. -/
theorem finish_writeFully {bs : List Byte} {c : Count} {s t : State} (h : WritesWith bs c s t) (want : Nat) :
    finish ((writeFully bs want s).andThen fun _ s => .ok plainOk s) =
      .next (answered (if c = .count want then .ok else .busWriteError) t) := by
  rw [writeFully_of_writesWith h]
  split <;> rfl

/-! ## SEND_SINGLE -/

theorem execSendSingle_of_connect_raised {bus addr : Byte} {e : Status} {s v : State} (len : Half) (din : List Byte)
    (h : connect bus addr s = .raised e v) : execSendSingle bus addr len din s = .next (answered e v) := by
  rw [execSendSingle, h]
  rfl

theorem execSendSingle_of_writesWith {bus addr : Byte} {len : Half} {din : List Byte} {c : Count} {s v t : State}
    (hcon : connect bus addr s = .ok () v) (hw : WritesWith din c v t) :
    execSendSingle bus addr len din s =
      .next (answered (if c = .count len.toNat then .ok else .busWriteError) t) := by
  rw [execSendSingle, hcon, Ran.andThen_ok]
  exact finish_writeFully hw _

/-- Settles O21: SEND_SINGLE is a bus handle and one write of its data. -/
theorem sendSingleWritesOnce : Obligations.SendSingleWritesOnce := fun bus addr len din _ _ =>
  ⟨encode_cmd_and_cmdMask (.sendSingle bus addr len din), fun _ _ h => execSendSingle_of_connect_raised len din h,
    fun _ _ _ => execSendSingle_of_writesWith⟩

/-! ## WAKE -/

theorem execWake_of_connect_raised {bus addr : Byte} {e : Status} {s v : State}
    (h : connect bus addr s = .raised e v) : execWake bus addr s = .next (answered e v) := by
  rw [execWake, h]
  rfl

/-- WAKE whose write is answered: the delay follows a count of 1 and no other. -/
theorem execWake_of_writesWith {bus addr : Byte} {c : Count} {s v t : State} (hcon : connect bus addr s = .ok () v)
    (hw : WritesWith [0x00] c v t) :
    execWake bus addr s =
      .next (if c = .count 1 then answered .ok (t.record (.evDelay 5)) else answered .busWriteError t) := by
  rw [execWake, hcon, Ran.andThen_ok, wakeBytes, writeFully_of_writesWith hw]
  split <;> rfl

/-- Settles O22: WAKE is a bus handle, one write of a zero byte and, when its count is 1, the delay. -/
theorem wakeWritesZeroThenDelays : Obligations.WakeWritesZeroThenDelays := by
  refine fun bus addr s => ⟨⟨encode_cmd_and_cmdMask (.wake bus addr), rfl, rfl⟩,
    fun _ _ => execWake_of_connect_raised, fun s1 s2 hcon hw => ?_, fun s1 c s2 hcon hw hc => ?_⟩
  · exact execWake_of_writesWith hcon hw
  · rw [exec, execWake_of_writesWith hcon hw, if_neg hc]

/-! ## SEND_STOP: its final element -/

/-- The final element of a well-formed SEND_STOP is `LEN` bytes long; without one, `LEN` is 0. -/
theorem chunkOf_sendStop_length {p : Bool} {bus addr : Byte} {len : Half} {din : List Byte}
    (hwf : (Instr.sendStop p bus addr len din).wellFormed = true) :
    (chunkOf (.sendStop p bus addr len din)).length = len.toNat := by
  cases p with
  | false =>
    obtain ⟨rfl, -⟩ : len = 0 ∧ din = [] := by simpa [Instr.wellFormed] using hwf
    rfl
  | true => simpa [Instr.wellFormed, dinFills, chunkOf] using hwf

/-- What SEND_STOP leaves in the frame before it uses the bus: the final element at the old `TX_OFF`, which has grown by
its length. -/
theorem closed_append {p : Bool} {bus addr : Byte} {len : Half} {din : List Byte} {s : State}
    (hwf : (Instr.sendStop p bus addr len din).wellFormed = true)
    (hfit : p = true → s.txOff.toNat + len.toNat ≤ s.txLen.toNat) :
    (s.closed p len din).txOff.toNat = s.txOff.toNat + len.toNat ∧
      Stored s.txb (s.closed p len din).txb s.txOff.toNat (chunkOf (.sendStop p bus addr len din)) := by
  cases p with
  | false =>
    obtain ⟨rfl, rfl⟩ : len = 0 ∧ din = [] := by simpa [Instr.wellFormed] using hwf
    exact ⟨rfl, stored_writeBytes s.txb _ []⟩
  | true => exact ⟨toNat_add_of_le (hfit rfl), stored_writeBytes s.txb _ din⟩

theorem leavesBus_closed (p : Bool) (len : Half) (din : List Byte) : LeavesBus fun s => s.closed p len din := by
  intro u s
  cases p <;> rfl

/-- After bus calls, SEND_STOP's part before them gives what it gave before them, with the new bus fields. -/
theorem closed_of_onlyBus {s t : State} (h : OnlyBus s t) (p : Bool) (len : Half) (din : List Byte) :
    t.closed p len din =
      { t with txState := .idle, txb := (s.closed p len din).txb, txOff := (s.closed p len din).txOff } := by
  cases p <;> simp [State.closed, State.appended, endAssembling, h.txb, h.txOff]

/-- A write goes the same before and after SEND_STOP's part before the bus. -/
theorem writesWith_closed {bs : List Byte} {c : Count} {s t : State} (h : WritesWith bs c s t) (p : Bool) (len : Half)
    (din : List Byte) : WritesWith bs c (s.closed p len din) (t.closed p len din) := by
  obtain ⟨hr, rfl⟩ := h
  cases p <;> exact ⟨hr, rfl⟩

/-! ## SEND_STOP: its frame on the bus -/

/-- What SEND_STOP does from its bus handle on: open, address and write `TXB[0 .. TX_OFF)` (41_transmit.md R137). -/
def flushFrame (bus addr : Byte) (s : State) : Ran Response :=
  (connect bus addr s).andThen fun _ s =>
  (memRead .tx 0 s.txOff.toNat s).andThen fun bs s =>
  (writeFully bs s.txOff.toNat s).andThen fun _ s =>
  .ok plainOk s

/-- A SEND_STOP that passes its own checks closes the frame and sends it. -/
theorem execSendStop_of_fits {p : Bool} {len : Half} {din : List Byte} {s : State} (bus addr : Byte)
    (ha : s.txState = .assembling)
    (hfit : p = true → s.txOff.toNat + len.toNat ≤ s.txLen.toNat ∧ s.hasCells .tx s.txOff.toNat din.length) :
    execSendStop p bus addr len din s = finish (flushFrame bus addr (s.closed p len din)) := by
  rw [execSendStop, requireAssembling, if_pos ha, Ran.andThen_ok]
  cases p with
  | false => rfl
  | true =>
    obtain ⟨hlen, hcells⟩ := hfit rfl
    have happend : appendFrame len din (endAssembling s) = .ok () (s.closed true len din) := appendFrame_ok hlen hcells
    rw [if_pos rfl, happend]
    rfl

theorem finish_flushFrame_of_connect_raised {bus addr : Byte} {e : Status} {s v : State}
    (h : connect bus addr s = .raised e v) : finish (flushFrame bus addr s) = .next (answered e v) := by
  rw [flushFrame, h]
  rfl

/-- A frame whose bus handle succeeds goes out in one write, and the count decides. -/
theorem finish_flushFrame_of_writesWith {bus addr : Byte} {bs : List Byte} {c : Count} {s v t : State}
    (hcon : connect bus addr s = .ok () v) (hcells : v.hasCells .tx 0 v.txOff.toNat)
    (hbs : v.txb.readBytes 0 v.txOff.toNat = some bs) (hw : WritesWith bs c v t) :
    finish (flushFrame bus addr s) =
      .next (answered (if c = .count v.txOff.toNat then .ok else .busWriteError) t) := by
  rw [flushFrame, hcon, Ran.andThen_ok, memRead_ok hcells hbs, Ran.andThen_ok]
  exact finish_writeFully hw _

/-- The bus handle raises in the closed frame as it does before. -/
theorem connect_closed_raised {bus addr : Byte} {e : Status} {s v : State} (h : connect bus addr s = .raised e v)
    (p : Bool) (len : Half) (din : List Byte) :
    connect bus addr (s.closed p len din) = .raised e (v.closed p len din) := by
  have hlift := connect_liftsTo (leavesBus_closed p len din) bus addr s
  rwa [h] at hlift

/-- The bus handle succeeds in the closed frame as it does before. -/
theorem connect_closed_ok {bus addr : Byte} {s v : State} (h : connect bus addr s = .ok () v)
    (p : Bool) (len : Half) (din : List Byte) :
    connect bus addr (s.closed p len din) = .ok () (v.closed p len din) := by
  have hlift := connect_liftsTo (leavesBus_closed p len din) bus addr s
  rwa [h] at hlift

/-- A SEND_STOP whose final element, if any, fits the frame and the frame the buffer. -/
theorem sendStop_fits {p : Bool} {bus addr : Byte} {len : Half} {din : List Byte} {s : State}
    (hwf : (Instr.sendStop p bus addr len din).wellFormed = true)
    (hfit : s.txOff.toNat + len.toNat ≤ s.txLen.toNat) (hcap : s.txLen.toNat ≤ s.params.txCapacity) :
    p = true → s.txOff.toNat + len.toNat ≤ s.txLen.toNat ∧ s.hasCells .tx s.txOff.toNat din.length := by
  rintro rfl
  exact ⟨hfit, hasCells_of_fits (chunkOf_sendStop_length hwf) hfit hcap⟩

/-- Settles O17: the frame is closed before the bus handle, whose error ends the command. -/
theorem sendStopBusHandleError : Obligations.SendStopBusHandleError := by
  intro p bus addr len din e s s1 hwf ha hfit hcap hcon
  obtain ⟨hoff, hstored⟩ := closed_append hwf fun _ => hfit
  obtain ⟨hbus, -, -, -, -, -⟩ := connect_eq_raised hcon
  refine ⟨_, _, hoff, hstored, ?_⟩
  rw [exec, execSendStop_of_fits bus addr ha (sendStop_fits hwf hfit hcap),
    finish_flushFrame_of_connect_raised (connect_closed_raised hcon p len din), closed_of_onlyBus hbus]

/-- Bytes stored behind a string continue it. -/
theorem holds_append {m m' : Memory} {o : Nat} {old bs : List Byte} (ho : o = old.length) (hold : Holds m 0 old)
    (h : Stored m m' o bs) : Holds m' 0 (old ++ bs) := by
  obtain ⟨hin, hout⟩ := h
  intro k hk
  rw [Nat.zero_add]
  by_cases hlt : k < old.length
  · rw [hout k (.inl (by omega)), List.getElem?_append_left hlt]
    simpa using hold k hlt
  · obtain ⟨j, rfl⟩ := Nat.exists_eq_add_of_le (Nat.not_lt.mp hlt)
    rw [← ho, hin j (by simpa using hk), ho, List.getElem?_append_right (by omega), Nat.add_sub_cancel_left]

/-- A string that cells hold is read from them. -/
theorem readBytes_of_holds {m : Memory} {o n : Nat} {bs : List Byte} (hn : n = bs.length) (h : Holds m o bs) :
    m.readBytes o n = some bs :=
  Memory.readBytes_eq_some_iff.mpr ⟨hn.symm, fun k hk => h k (hn ▸ hk)⟩

/-- The frame a SEND_STOP closes is what it held before, and the final element. -/
theorem closed_frame {p : Bool} {bus addr : Byte} {len : Half} {din old : List Byte} {s : State}
    (hwf : (Instr.sendStop p bus addr len din).wellFormed = true)
    (hfit : p = true → s.txOff.toNat + len.toNat ≤ s.txLen.toNat) (hlen : old.length = s.txOff.toNat)
    (hold : Holds s.txb 0 old) :
    (s.closed p len din).txb.readBytes 0 (s.closed p len din).txOff.toNat =
      some (old ++ chunkOf (.sendStop p bus addr len din)) := by
  obtain ⟨hoff, hstored⟩ := closed_append hwf hfit
  refine readBytes_of_holds ?_ (holds_append hlen.symm hold hstored)
  rw [hoff, List.length_append, chunkOf_sendStop_length hwf, hlen]

/-- Settles O16: the cells of the bytes before and of the final element are those the one write sends. -/
theorem sendStopSendsAssembledBytes : Obligations.SendStopSendsAssembledBytes := by
  intro p bus addr len din old c s s1 s2 hwf ha hlen hold hfit hcap hcon hw
  obtain ⟨hoff, hstored⟩ := closed_append hwf fun _ => hfit
  refine ⟨_, _, hoff, hstored, ?_⟩
  have hcon' := connect_closed_ok hcon p len din
  obtain ⟨hbus, -, -, -, -⟩ := connect_eq_ok hcon'
  have hcells : (s1.closed p len din).hasCells .tx 0 (s1.closed p len din).txOff.toNat := by
    refine .inr ?_
    rw [State.capacity, hbus.params, State.closed_params, hbus.txOff, hoff, Nat.zero_add]
    exact hfit.trans hcap
  have hframe := closed_frame hwf (fun _ => hfit) hlen hold
  rw [← hbus.txb, ← hbus.txOff] at hframe
  have hbus2 : OnlyBus s s2 := (connect_eq_ok hcon).1.trans (by rw [hw.2]; rfl)
  rw [exec, execSendStop_of_fits bus addr ha (sendStop_fits hwf hfit hcap),
    finish_flushFrame_of_writesWith hcon' hcells hframe (writesWith_closed hw p len din), hbus.txOff,
    closed_of_onlyBus hbus2]

end Sys2Proof.Machine

/-! PROOF. The transmit machine (41_transmit.md R130): what each command makes of `TX_STATE`, and what follows for the
commands after a SEND_STOP (R139, R141). -/

namespace Sys2Proof.Machine

open Sys2Proof.Safety

/-! ## Which commands change the transmit side -/

/-- Only SEND_START, and SEND_CONTINUE and SEND_STOP in ASSEMBLING, change the transmit registers or `TXB`. -/
theorem FrameEffect.sameTx_or {i : Instr} {s u : State} (h : FrameEffect i s u) :
    SameTx s u ∨ (∃ bus addr len, i = .sendStart bus addr len) ∨
      (s.txState = .assembling ∧
        ((∃ z len din, i = .sendContinue z len din) ∨ ∃ p bus addr len din, i = .sendStop p bus addr len din)) := by
  cases h with
  | start _ => exact .inr (.inl ⟨_, _, _, rfl⟩)
  | append ha _ _ => exact .inr (.inr ⟨ha, .inl ⟨_, _, _, rfl⟩⟩)
  | close ha | appendAndClose ha _ _ => exact .inr (.inr ⟨ha, .inr ⟨_, _, _, _, _, rfl⟩⟩)
  | unchanged | fill _ _ _ | spoil _ _ _ | take _ _ | release _ _ | calculate | accumulate =>
    exact .inl ⟨rfl, rfl, rfl, fun _ => rfl⟩

/-- The same of a whole command, whose bus use and response leave the transmit side alone. -/
theorem exec_sameTx_or {i : Instr} {s t : State} (h : exec i s = .next t) :
    SameTx s t ∨ (∃ bus addr len, i = .sendStart bus addr len) ∨
      (s.txState = .assembling ∧
        ((∃ z len din, i = .sendContinue z len din) ∨ ∃ p bus addr len din, i = .sendStop p bus addr len din)) := by
  obtain ⟨u, v, r, hu, hv, rfl⟩ := exec_completes h
  rw [hv.onlyBus]
  exact hu.sameTx_or

/-! ## The transition table -/

/-- The status of the response that `answered` appends. -/
theorem status_of_answered {e : Status} {s v : State} {r : Response}
    (hr : (answered e v).responses = s.responses ++ [r]) (hv : v.responses = s.responses) : r.status = e := by
  rw [answered_responses, hv] at hr
  obtain rfl := List.singleton_inj.mp (List.append_cancel_left hr)
  rfl

theorem exec_sendStart_txState {bus addr : Byte} {len : Half} {s t : State} {r : Response}
    (h : exec (.sendStart bus addr len) s = .next t) (hr : t.responses = s.responses ++ [r]) :
    t.txState = if r.status = .ok then .assembling else s.txState := by
  rcases execSendStart_next (bus := bus) (addr := addr) h with ⟨-, rfl⟩ | ⟨-, rfl⟩ <;>
    rw [status_of_answered hr rfl] <;> rfl

/-- In ASSEMBLING a SEND_CONTINUE passes its state check. -/
theorem execSendContinue_status {z : Bool} {len : Half} {din : List Byte} {s t : State} {r : Response}
    (h : execSendContinue z len din s = .next t) (hr : t.responses = s.responses ++ [r])
    (ha : s.txState = .assembling) : r.status ≠ .sequenceError := by
  rcases execSendContinue_next h with ⟨hna, -⟩ | ⟨-, -, rfl⟩ | ⟨-, -, -, rfl⟩
  · exact absurd ha hna
  · rw [status_of_answered hr rfl]; nofun
  · rw [status_of_answered hr rfl]; nofun

theorem execSendContinue_txState {z : Bool} {len : Half} {din : List Byte} {s t : State}
    (h : execSendContinue z len din s = .next t) : t.txState = s.txState := by
  rcases execSendContinue_next h with ⟨-, rfl⟩ | ⟨-, -, rfl⟩ | ⟨-, -, -, rfl⟩ <;> rfl

/-- In ASSEMBLING a SEND_STOP passes its state check. -/
theorem execSendStop_status {p : Bool} {bus addr : Byte} {len : Half} {din : List Byte} {s t : State} {r : Response}
    (h : execSendStop p bus addr len din s = .next t) (hr : t.responses = s.responses ++ [r])
    (ha : s.txState = .assembling) : r.status ≠ .sequenceError := by
  rcases execSendStop_next h with
    ⟨hna, -⟩ | ⟨-, -, -, rfl⟩ | ⟨-, -, ⟨e, v, hcon, rfl⟩ | ⟨v, bs, c, hcon, -, rfl⟩⟩
  · exact absurd ha hna
  · rw [status_of_answered hr rfl]; nofun
  · obtain ⟨hb, -, he, -, -, -⟩ := connect_eq_raised hcon
    rw [status_of_answered hr (hb.responses.trans (s.closed_responses p len din))]
    rcases he with rfl | rfl <;> nofun
  · obtain ⟨hb, -, -, -, -⟩ := connect_eq_ok hcon
    rw [status_of_answered hr (hb.responses.trans (s.closed_responses p len din))]
    split <;> nofun

theorem TxState.eq_idle_iff {st : TxState} : st = .idle ↔ st ≠ .assembling := by cases st <;> simp

/-- A SEND_STOP ends in IDLE, whatever it answers. -/
theorem execSendStop_txState {p : Bool} {bus addr : Byte} {len : Half} {din : List Byte} {s t : State}
    (h : execSendStop p bus addr len din s = .next t) : t.txState = .idle := by
  rcases execSendStop_next h with
    ⟨hna, rfl⟩ | ⟨-, -, -, rfl⟩ | ⟨-, -, ⟨e, v, hcon, rfl⟩ | ⟨v, bs, c, hcon, -, rfl⟩⟩
  · exact TxState.eq_idle_iff.mpr hna
  · rfl
  · obtain ⟨hb, -, -, -, -, -⟩ := connect_eq_raised hcon
    exact hb.txState.trans (s.closed_txState p len din)
  · obtain ⟨hb, -, -, -, -⟩ := connect_eq_ok hcon
    exact hb.txState.trans (s.closed_txState p len din)

/-- The row of a command in the table of R130. -/
theorem exec_txState {i : Instr} {s t : State} {r : Response} (h : exec i s = .next t)
    (hr : t.responses = s.responses ++ [r]) : t.txState = txAfter i s.txState r.status := by
  cases i with
  | sendStart bus addr len => exact exec_sendStart_txState h hr
  | sendContinue z len din => exact execSendContinue_txState h
  | sendStop p bus addr len din => exact execSendStop_txState h
  | sendSingle | wake | recvStart | recvContinue | recvStop | recvSingle | crcCalculate | crcAccumulate =>
    obtain ⟨hstate, -, -, -⟩ : SameTx s t := by simpa using exec_sameTx_or h
    exact hstate

/-- Outside ASSEMBLING, SEND_CONTINUE and SEND_STOP fail their state check and change nothing. -/
theorem exec_of_not_assembling {i : Instr} {s : State} (h : s.txState ≠ .assembling)
    (hi : (∃ z len din, i = .sendContinue z len din) ∨ ∃ p bus addr len din, i = .sendStop p bus addr len din) :
    exec i s = .next (answered .sequenceError s) := by
  rcases hi with ⟨z, len, din, rfl⟩ | ⟨p, bus, addr, len, din, rfl⟩
  · exact execSendContinue_of_not_assembling z len din h
  · exact execSendStop_of_not_assembling p bus addr len din h

/-- Settles O41: the rows of the table, and the state check of SEND_CONTINUE and SEND_STOP in both states. -/
theorem transmitTransitions : Obligations.TransmitTransitions := by
  refine fun i s t r h hr => ⟨exec_txState h hr, fun hidle hi => ?_, ?_, ?_⟩
  · cases h.symm.trans (exec_of_not_assembling (TxState.eq_idle_iff.mp hidle) hi)
    exact status_of_answered hr rfl
  · rintro ha z len din rfl
    exact execSendContinue_status h hr ha
  · rintro ha p bus addr len din rfl
    exact execSendStop_status h hr ha

/-! ## Several commands -/

/-- A run of a list of instructions is a run of the first and then of the others. -/
theorem execAll_cons {i : Instr} {is : List Instr} {s t : State} (h : execAll (i :: is) s = .next t) :
    ∃ u, exec i s = .next u ∧ execAll is u = .next t := by
  rw [execAll] at h
  cases hi : exec i s with
  | next u => rw [hi] at h; exact ⟨u, rfl, h⟩
  | fault f => rw [hi] at h; cases h
  | refused x => rw [hi] at h; cases h

/-- No instruction of the list is a SEND_START. -/
def NoStart (is : List Instr) : Prop := ∀ i ∈ is, ∀ bus addr len, i ≠ .sendStart bus addr len

/-- In IDLE, a command that is no SEND_START leaves the transmit side alone. -/
theorem exec_sameTx_of_idle {i : Instr} {s t : State} (hi : ∀ bus addr len, i ≠ .sendStart bus addr len)
    (hs : s.txState = .idle) (h : exec i s = .next t) : SameTx s t := by
  rcases exec_sameTx_or h with hsame | ⟨bus, addr, len, rfl⟩ | ⟨ha, -⟩
  · exact hsame
  · exact absurd rfl (hi bus addr len)
  · exact absurd ha (TxState.eq_idle_iff.mp hs)

/-- From IDLE, commands that include no SEND_START leave the transmit side alone. -/
theorem execAll_sameTx_of_idle {is : List Instr} {s t : State} (his : NoStart is) (hs : s.txState = .idle)
    (h : execAll is s = .next t) : SameTx s t := by
  induction is generalizing s with
  | nil => cases h; exact ⟨rfl, rfl, rfl, fun _ => rfl⟩
  | cons i is ih =>
    obtain ⟨hi, his⟩ := List.forall_mem_cons.mp his
    obtain ⟨u, hu, h⟩ := execAll_cons h
    obtain ⟨hstate, hlen, hoff, hcells⟩ := exec_sameTx_of_idle hi hs hu
    obtain ⟨hstate', hlen', hoff', hcells'⟩ := ih his (hstate.trans hs) h
    exact ⟨hstate'.trans hstate, hlen'.trans hlen, hoff'.trans hoff, fun a => (hcells' a).trans (hcells a)⟩

/-! ## After a SEND_STOP -/

/-- Settles O19: SEND_STOP ends in IDLE, which only a SEND_START leaves. -/
theorem sendStopEndsFrame : Obligations.SendStopEndsFrame := by
  intro p bus addr len din mid s t u h hmid hu
  have ht : t.txState = .idle := execSendStop_txState h
  obtain ⟨hstate, -, -, -⟩ := execAll_sameTx_of_idle hmid ht hu
  have hidle := hstate.trans ht
  have hna := TxState.eq_idle_iff.mp hidle
  exact ⟨ht, hidle, fun z len' din' => execSendContinue_of_not_assembling z len' din' hna,
    fun p' bus' addr' len' din' => execSendStop_of_not_assembling p' bus' addr' len' din' hna⟩

/-- A SEND_STOP that fails at the bus has made its append (R141). -/
theorem execSendStop_of_busError {p : Bool} {bus addr : Byte} {len : Half} {din : List Byte} {e : Status} {s t : State}
    (h : execSendStop p bus addr len din s = .next t) (hr : t.responses = s.responses ++ [⟨e, 0, 0, []⟩])
    (he : e = .busOpenError ∨ e = .busAddressError ∨ e = .busWriteError) :
    (p = true → s.txOff.toNat + len.toNat ≤ s.txLen.toNat) ∧ t.txOff = (s.closed p len din).txOff ∧
      t.txb = (s.closed p len din).txb := by
  rcases execSendStop_next h with
    ⟨-, rfl⟩ | ⟨-, -, -, rfl⟩ | ⟨-, hfit, ⟨e', v, hcon, rfl⟩ | ⟨v, bs, c, hcon, -, rfl⟩⟩
  · obtain rfl : e = .sequenceError := status_of_answered hr rfl
    simp at he
  · obtain rfl : e = .bufferOverflow := status_of_answered hr rfl
    simp at he
  · obtain ⟨hb, -, -, -, -, -⟩ := connect_eq_raised hcon
    exact ⟨fun hp => (hfit hp).1, hb.txOff, hb.txb⟩
  · obtain ⟨hb, -, -, -, -⟩ := connect_eq_ok hcon
    exact ⟨fun hp => (hfit hp).1, hb.txOff, hb.txb⟩

/-- A SEND_START that leads from IDLE to ASSEMBLING starts the frame at offset 0. -/
theorem exec_sendStart_txOff {bus addr : Byte} {len : Half} {s t : State} (hs : s.txState = .idle)
    (h : exec (.sendStart bus addr len) s = .next t) (ht : t.txState = .assembling) : t.txOff = 0 := by
  rcases execSendStart_next (bus := bus) (addr := addr) h with ⟨-, rfl⟩ | ⟨-, rfl⟩
  · exact absurd ht (TxState.eq_idle_iff.mp hs)
  · rfl

/-- Settles O20: the append is made before the bus handle, and from IDLE no command but SEND_START touches it. -/
theorem failedFlushKeepsTheAppend : Obligations.FailedFlushKeepsTheAppend := by
  intro bus addr len din e s t hwf h hr he
  obtain ⟨hfit, htxOff, htxb⟩ := execSendStop_of_busError h hr he
  obtain ⟨hoff, hstored⟩ := closed_append hwf hfit
  have ht : t.txState = .idle := execSendStop_txState h
  rw [← htxOff] at hoff
  rw [← htxb] at hstored
  refine ⟨hoff, hstored, ht, fun mid u hmid hu => ?_⟩
  obtain ⟨hstate, -, hoff', hcells⟩ := execAll_sameTx_of_idle hmid ht hu
  have hidle := hstate.trans ht
  have hna := TxState.eq_idle_iff.mp hidle
  exact ⟨hoff', hcells, fun p' bus' addr' len' din' => execSendStop_of_not_assembling p' bus' addr' len' din' hna,
    fun _ _ _ _ => exec_sendStart_txOff hidle⟩

end Sys2Proof.Machine

/-! PROOF. A frame of many pieces (41_transmit.md R142): commands that all answer `OK` keep what was appended so far at
the front of `TXB` and make no bus write, until SEND_STOP writes it. -/

namespace Sys2Proof.Machine

open Sys2Proof.Safety

/-! ## Runs that answer OK -/

/-- From `s` to `t` responses were appended, and the status of each is `OK`. -/
def AllOk (s t : State) : Prop := ∃ rs, t.responses = s.responses ++ rs ∧ ∀ r ∈ rs, r.status = .ok

/-- A run appends to the responses. -/
theorem execAll_responses {is : List Instr} {s t : State} (h : execAll is s = .next t) :
    s.responses <+: t.responses := by
  induction is generalizing s with
  | nil => cases h; exact List.prefix_rfl
  | cons i is ih =>
    obtain ⟨u, hu, h⟩ := execAll_cons h
    obtain ⟨-, r, hr⟩ := (exec_completes hu).answersOnce
    exact .trans ⟨[r], hr.symm⟩ (ih h)

/-- In a run that answers `OK` to every command, the first command does, and the run of the others. -/
theorem execAll_cons_ok {i : Instr} {is : List Instr} {s t : State} (h : execAll (i :: is) s = .next t)
    (hok : AllOk s t) : ∃ u, exec i s = .next u ∧ AnswersOk s u ∧ execAll is u = .next t ∧ AllOk u t := by
  obtain ⟨u, hu, h⟩ := execAll_cons h
  obtain ⟨-, r, hr⟩ := (exec_completes hu).answersOnce
  obtain ⟨rs', hrs'⟩ := execAll_responses h
  obtain ⟨rs, hrs, hall⟩ := hok
  rw [← hrs', hr, List.append_assoc] at hrs
  obtain rfl : r :: rs' = rs := List.append_cancel_left hrs
  obtain ⟨hrok, hall⟩ := List.forall_mem_cons.mp hall
  exact ⟨u, hu, ⟨r, hr, hrok⟩, h, rs', hrs'.symm, hall⟩

/-! ## Bus writes -/

/-- From `s` to `t` the trace grew, and `ws` are the bus writes among the new events. -/
def Writes (ws : List Event) (s t : State) : Prop :=
  ∃ evs, t.trace = s.trace ++ evs ∧ evs.filter isWrite = ws

theorem Writes.trans {ws ws' : List Event} {s t u : State} (h : Writes ws s t) (h' : Writes ws' t u) :
    Writes (ws ++ ws') s u := by
  obtain ⟨evs, ht, rfl⟩ := h
  obtain ⟨evs', hu, rfl⟩ := h'
  exact ⟨evs ++ evs', by rw [hu, ht, List.append_assoc], List.filter_append _ _⟩

theorem Writes.of_trace_eq {s t : State} (h : t.trace = s.trace) : Writes [] s t :=
  ⟨[], by rw [h, List.append_nil], rfl⟩

/-- A bus handle writes nothing. -/
theorem handleEvents_filter_isWrite (bus addr : Byte) (s : State) : (handleEvents bus addr s).filter isWrite = [] := by
  unfold handleEvents
  split <;> split <;> rfl

/-- One more event, a bus write. -/
theorem Writes.of_write {bs : List Byte} {c : Count} {s t : State} (h : t.trace = s.trace ++ [.evWrite bs c]) :
    Writes [.evWrite bs c] s t := ⟨_, h, rfl⟩

theorem Writes.of_connect {bus addr : Byte} {s t : State} (h : connect bus addr s = .ok () t) : Writes [] s t := by
  obtain ⟨-, htrace, -, -, -⟩ := connect_eq_ok h
  exact ⟨_, htrace, handleEvents_filter_isWrite bus addr s⟩

/-- The writes of a command that succeeds are those among its transfers. -/
theorem Transacts.writes {i : Instr} {bus addr : Byte} {s t : State} (h : Transacts i bus addr s t) :
    ∃ evs, transfersFit i t.txOff.toNat evs ∧ Writes (evs.filter isWrite) s t := by
  obtain ⟨evs, hfit, htrace⟩ := h
  refine ⟨evs, hfit, handleEvents bus addr s ++ evs, by rw [htrace, List.append_assoc], ?_⟩
  rw [List.filter_append, handleEvents_filter_isWrite, List.nil_append]

/-- The commands between SEND_START and SEND_STOP that succeed write nothing to the bus. -/
theorem writes_nil_of_betweenTransmit {i : Instr} {s t : State} (hi : betweenTransmit i = true)
    (h : exec i s = .next t) (hok : AnswersOk s t) : Writes [] s t := by
  cases i with
  | recvStart bus addr len =>
    obtain ⟨evs, ⟨d, rfl⟩, hw⟩ := (execRecvStart_transacts h hok).writes
    exact hw
  | recvSingle bus addr =>
    obtain ⟨evs, ⟨_, _, _, _, _, -, rfl⟩, hw⟩ := (execRecvSingle_transacts h hok).writes
    exact hw
  | sendContinue | recvContinue | recvStop | crcCalculate | crcAccumulate =>
    obtain ⟨u, r, hu, rfl⟩ := exec_next_of_busFields_none rfl h
    exact .of_trace_eq hu.trace
  | sendStart | sendStop | sendSingle | wake => cases hi

/-! ## The frame so far -/

/-- A frame is being assembled, and the bytes appended to it are `bs`. -/
structure Assembled (bs : List Byte) (s : State) : Prop where
  assembling : s.txState = .assembling
  length : bs.length = s.txOff.toNat
  holds : Holds s.txb 0 bs

/-- What leaves the transmit side alone leaves the frame. -/
theorem Assembled.of_sameTx {bs : List Byte} {s t : State} (h : Assembled bs s) (hst : SameTx s t) :
    Assembled bs t := by
  obtain ⟨hstate, -, hoff, hcells⟩ := hst
  exact ⟨hstate.trans h.assembling, by rw [hoff, h.length], fun k hk => (hcells _).trans (h.holds k hk)⟩

/-- A SEND_START that succeeds begins an empty frame and writes nothing. -/
theorem exec_sendStart_assembled {bus addr : Byte} {len : Half} {s t : State}
    (h : exec (.sendStart bus addr len) s = .next t) (hok : AnswersOk s t) : Assembled [] t ∧ Writes [] s t := by
  rcases execSendStart_next (bus := bus) (addr := addr) h with ⟨-, rfl⟩ | ⟨-, rfl⟩
  · exact nomatch hok.status rfl
  · exact ⟨⟨rfl, rfl, nofun⟩, .of_trace_eq rfl⟩

/-- A SEND_CONTINUE that succeeds extends the frame by its bytes. -/
theorem execSendContinue_assembled {z : Bool} {len : Half} {din bs : List Byte} {s t : State}
    (hwf : (Instr.sendContinue z len din).wellFormed = true) (h : execSendContinue z len din s = .next t)
    (hok : AnswersOk s t) (hs : Assembled bs s) : Assembled (bs ++ continueBytes z len din) t := by
  rcases execSendContinue_next h with ⟨-, rfl⟩ | ⟨-, -, rfl⟩ | ⟨ha, hfit, -, rfl⟩
  · exact nomatch hok.status rfl
  · exact nomatch hok.status rfl
  · refine ⟨ha, ?_, holds_append hs.length.symm hs.holds (stored_writeBytes _ _ _)⟩
    rw [List.length_append, hs.length, continueBytes_length hwf]
    exact (toNat_add_of_le hfit).symm

/-- A command between SEND_START and SEND_STOP that succeeds extends the frame by its bytes, if it has any. -/
theorem exec_assembled {i : Instr} {bs : List Byte} {s t : State} (hwf : i.wellFormed = true)
    (hi : betweenTransmit i = true) (h : exec i s = .next t) (hok : AnswersOk s t) (hs : Assembled bs s) :
    Assembled (bs ++ chunkOf i) t := by
  cases i with
  | sendContinue z len din => exact execSendContinue_assembled hwf h hok hs
  | recvStart | recvContinue | recvStop | recvSingle | crcCalculate | crcAccumulate =>
    have hst : SameTx s t := by simpa using exec_sameTx_or h
    rw [chunkOf, List.append_nil]
    exact hs.of_sameTx hst
  | sendStart | sendStop | sendSingle | wake => cases hi

/-- The write that sends the whole of a frame. -/
def frameWrite (bs : List Byte) : Event := .evWrite bs (.count bs.length)

/-- A SEND_STOP that succeeds writes the frame with its final element, in one write. -/
theorem execSendStop_writes {p : Bool} {bus addr : Byte} {len : Half} {din bs : List Byte} {s t : State}
    (hwf : (Instr.sendStop p bus addr len din).wellFormed = true) (h : execSendStop p bus addr len din s = .next t)
    (hok : AnswersOk s t) (hs : Assembled bs s) :
    Writes [frameWrite (bs ++ chunkOf (.sendStop p bus addr len din))] s t := by
  rcases execSendStop_next h with
    ⟨-, rfl⟩ | ⟨-, -, -, rfl⟩ | ⟨-, hfit, ⟨e, v, hcon, rfl⟩ | ⟨v, cs, c, hcon, hcs, rfl⟩⟩
  · exact nomatch hok.status rfl
  · exact nomatch hok.status rfl
  · exact absurd hok (not_answersOk_of_connect_raised hcon (s.closed_responses p len din))
  obtain ⟨hb, -, -, -, -⟩ := connect_eq_ok hcon
  obtain rfl : c = .count v.txOff.toNat := by
    simpa using hok.status (hb.responses.trans (s.closed_responses p len din))
  have hframe := closed_frame hwf (fun hp => (hfit hp).1) hs.length hs.holds
  rw [← hb.txb, ← hb.txOff, hcs] at hframe
  obtain rfl := Option.some.inj hframe
  obtain ⟨hlen, -⟩ := Memory.readBytes_eq_some_iff.mp hcs
  rw [frameWrite, hlen]
  have hclosed : Writes [] s (s.closed p len din) := .of_trace_eq (s.closed_trace p len din)
  exact hclosed.trans ((Writes.of_connect hcon).trans (.of_write rfl))

/-- The pieces from some point of the frame on: what they add and the SEND_STOP's final element go out behind what the
frame held, in one write. -/
theorem execAll_writes {mid : List Instr} {p : Bool} {bus addr : Byte} {len : Half} {din bs : List Byte} {s t : State}
    (hmid : ∀ i ∈ mid, i.wellFormed = true ∧ betweenTransmit i = true)
    (hwf : (Instr.sendStop p bus addr len din).wellFormed = true) (hs : Assembled bs s)
    (h : execAll (mid ++ [.sendStop p bus addr len din]) s = .next t) (hok : AllOk s t) :
    Writes [frameWrite (bs ++ (mid ++ [Instr.sendStop p bus addr len din]).flatMap chunkOf)] s t := by
  induction mid generalizing bs s with
  | nil =>
    obtain ⟨u, hu, hok, h, -⟩ := execAll_cons_ok h hok
    cases h
    rw [List.nil_append, List.flatMap_singleton]
    exact execSendStop_writes hwf hu hok hs
  | cons i mid ih =>
    obtain ⟨⟨hwfi, hi⟩, hmid⟩ := List.forall_mem_cons.mp hmid
    obtain ⟨u, hu, hoku, h, hok⟩ := execAll_cons_ok h hok
    have hrest := ih hmid (exec_assembled hwfi hi hu hoku hs) h hok
    rw [List.cons_append, List.flatMap_cons, ← List.append_assoc]
    exact (writes_nil_of_betweenTransmit hi hu hoku).trans hrest

/-- Settles O54: SEND_START begins an empty frame, and the pieces go out in the one write of SEND_STOP. -/
theorem oneWritePerFrame : Obligations.OneWritePerFrame := by
  intro bus addr bus' addr' N len p din mid s t rs hmid hwf hN h hrs hall
  obtain ⟨u, hu, hoku, h, hok⟩ := execAll_cons_ok h ⟨rs, hrs, hall⟩
  obtain ⟨hassembled, hstart⟩ := exec_sendStart_assembled hu hoku
  rw [hN]
  exact hstart.trans (execAll_writes hmid hwf hassembled h hok)

end Sys2Proof.Machine

/-! PROOF. The receive commands without the bus: when RECV_CONTINUE and RECV_STOP fail their state and bound checks, and
what they return and leave where they pass them (42_receive.md R164, R166 to R168). -/

namespace Sys2Proof.Machine

open Sys2Proof.Safety

/-! ## The next bytes of the frame -/

theorem frameBytes_underflow {len : Half} {s : State} (h : s.rxLen.toNat < s.rxOff.toNat + len.toNat) :
    frameBytes len s = .raised .bufferUnderflow s := if_pos h

/-- Bytes within the frame and within `RXB`, all written, are answered. -/
theorem frameBytes_ok {len : Half} {d : List Byte} {s : State} (hfit : s.rxOff.toNat + len.toNat ≤ s.rxLen.toNat)
    (hcells : s.hasCells .rx s.rxOff.toNat len.toNat) (hd : s.rxb.readBytes s.rxOff.toNat len.toNat = some d) :
    frameBytes len s = .ok d s := by
  rw [frameBytes, if_neg (by omega)]
  exact memRead_ok hcells hd

/-- The bytes that `LEN` cells of a frame within the capacity hold are answered. -/
theorem frameBytes_of_holds {len : Half} {d : List Byte} {s : State}
    (hfit : s.rxOff.toNat + len.toNat ≤ s.rxLen.toNat) (hcap : s.rxLen.toNat ≤ s.params.rxCapacity)
    (hlen : d.length = len.toNat) (hd : Holds s.rxb s.rxOff.toNat d) : frameBytes len s = .ok d s :=
  frameBytes_ok hfit (.inr (hfit.trans hcap)) (readBytes_of_holds hlen.symm hd)

/-! ## RECV_CONTINUE -/

theorem execRecvContinue_of_not_filled (len : Half) {s : State} (h : s.rxState ≠ .filled) :
    execRecvContinue len s = .next (answered .sequenceError s) := by
  rw [execRecvContinue, requireFilled, if_neg h]
  rfl

theorem execRecvContinue_underflow {len : Half} {s : State} (hf : s.rxState = .filled)
    (h : s.rxLen.toNat < s.rxOff.toNat + len.toNat) :
    execRecvContinue len s = .next (answered .bufferUnderflow s) := by
  rw [execRecvContinue, requireFilled, if_pos hf, Ran.andThen_ok, frameBytes_underflow h]
  rfl

theorem execRecvContinue_ok {len : Half} {d : List Byte} {s : State} (hf : s.rxState = .filled)
    (h : frameBytes len s = .ok d s) :
    execRecvContinue len s = .next (State.respond { s with rxOff := s.rxOff + len } (okResponse 0 0 d)) := by
  rw [execRecvContinue, requireFilled, if_pos hf, Ran.andThen_ok, h]
  rfl

/-- Settles O26: the state check, then the exact sum against `RX_LEN`, then the bytes from `RX_OFF` on. -/
theorem recvContinueReturnsNextBytes : Obligations.RecvContinueReturnsNextBytes := by
  refine fun len s => ⟨⟨rfl, rfl⟩, execRecvContinue_of_not_filled len, fun hf _ hshort => ?_,
    fun d hf hfit hcap hlen hd => ⟨_, toNat_add_of_le hfit, ?_⟩⟩
  · exact execRecvContinue_underflow hf (by omega)
  · exact execRecvContinue_ok hf (frameBytes_of_holds hfit hcap hlen hd)

/-! ## RECV_STOP -/

theorem execRecvStop_of_not_filled (len : Half) {s : State} (h : s.rxState ≠ .filled) :
    execRecvStop len s = .next (answered .sequenceError s) := by
  rw [execRecvStop, requireFilled, if_neg h]
  rfl

theorem execRecvStop_underflow {len : Half} {s : State} (hf : s.rxState = .filled)
    (h : s.rxLen.toNat < s.rxOff.toNat + len.toNat) :
    execRecvStop len s = .next (answered .bufferUnderflow s) := by
  rw [execRecvStop, requireFilled, if_pos hf, Ran.andThen_ok, frameBytes_underflow h]
  rfl

theorem execRecvStop_ok {len : Half} {d : List Byte} {s : State} (hf : s.rxState = .filled)
    (h : frameBytes len s = .ok d s) :
    execRecvStop len s = .next (State.respond (endFilled s) (okResponse 0 0 d)) := by
  rw [execRecvStop, requireFilled, if_pos hf, Ran.andThen_ok, h]
  rfl

/-- Settles O27: the checks of RECV_CONTINUE, and after them the end of the frame. -/
theorem recvStopEndsFrame : Obligations.RecvStopEndsFrame := by
  refine fun len s => ⟨⟨rfl, rfl⟩, execRecvStop_of_not_filled len, fun hf _ hshort => ?_,
    fun d hf hfit hcap hlen hd => ?_⟩
  · exact execRecvStop_underflow hf (by omega)
  · exact execRecvStop_ok hf (frameBytes_of_holds hfit hcap hlen hd)

/-- A RECV_STOP of no bytes ends any frame whose offset is within it, and reads no cell. -/
theorem execRecvStop_zero {s : State} (hf : s.rxState = .filled) (h : s.rxOff.toNat ≤ s.rxLen.toNat) :
    execRecvStop 0 s = .next (answered .ok (endFilled s)) :=
  execRecvStop_ok hf (frameBytes_ok h (.inl rfl) rfl)

end Sys2Proof.Machine

/-! PROOF. The receive commands on the bus: a bus handle that raises, the one read of RECV_START (42_receive.md R161,
R163) and the three reads of RECV_SINGLE (R170). -/

namespace Sys2Proof.Machine

open Sys2Proof.Safety

/-! ## One read -/

theorem length_of_readsFull {len : Nat} {d : List Byte} {s t : State} (h : ReadsFull len s d t) : d.length = len := by
  obtain ⟨-, hd, -⟩ := h
  exact hd

theorem onlyBus_of_readsFull {len : Nat} {d : List Byte} {s t : State} (h : ReadsFull len s d t) : OnlyBus s t := by
  obtain ⟨-, -, rfl⟩ := h
  rfl

theorem onlyBus_of_readsShort {len : Nat} {s t : State} (h : ReadsShort len s t) : OnlyBus s t := by
  obtain ⟨c, d, -, -, rfl⟩ := h
  rfl

theorem readRaw_of_readsFull {len : Nat} {d : List Byte} {s t : State} (h : ReadsFull len s d t) :
    readRaw len s = .ok (.count len, d) t := by
  obtain ⟨hr, rfl, rfl⟩ := h
  rw [readRaw, hr]
  rfl

theorem readRaw_of_readsShort {len : Nat} {s t : State} (h : ReadsShort len s t) :
    ∃ c d, c ≠ .count len ∧ readRaw len s = .ok (c, d) t := by
  obtain ⟨c, d, hc, ⟨hr, rfl, rfl⟩ | ⟨hr, rfl⟩, rfl⟩ := h
  · exact ⟨_, _, hc, by rw [readRaw, hr]; rfl⟩
  · exact ⟨_, _, hc, by rw [readRaw, hr]; rfl⟩

theorem readFully_of_readsFull {len : Nat} {d : List Byte} {s t : State} (h : ReadsFull len s d t) :
    readFully len s = .ok d t := by
  rw [readFully, readRaw_of_readsFull h, Ran.andThen_ok, requireCount, if_pos rfl]
  rfl

theorem readFully_of_readsShort {len : Nat} {s t : State} (h : ReadsShort len s t) :
    readFully len s = .raised .busReadError t := by
  obtain ⟨c, d, hc, hread⟩ := readRaw_of_readsShort h
  rw [readFully, hread, Ran.andThen_ok, requireCount, if_neg hc]
  rfl

/-! ## RECV_START -/

theorem execRecvStart_overflow (bus addr : Byte) {len : Half} {s : State} (h : s.params.rxCapacity < len.toNat) :
    execRecvStart bus addr len s = .next (answered .bufferOverflow s) := by
  rw [execRecvStart, if_pos h]
  rfl

theorem execRecvStart_of_connect_raised {bus addr : Byte} {len : Half} {e : Status} {s v : State}
    (hlen : len.toNat ≤ s.params.rxCapacity) (h : connect bus addr s = .raised e v) :
    execRecvStart bus addr len s = .next (answered e v) := by
  rw [execRecvStart, if_neg (by omega), h]
  rfl

/-- After bus calls, `LEN` bytes within the capacity are stored in `RXB` as it was before them. -/
theorem memWrite_rx_of_onlyBus {s t : State} {bs : List Byte} (hb : OnlyBus s t)
    (hcap : bs.length ≤ s.params.rxCapacity) :
    memWrite .rx 0 bs t = .ok () (t.withCells .rx (s.rxb.writeBytes 0 bs)) := by
  have hcells : t.hasCells .rx 0 bs.length := .inr (by simpa [hb.params] using hcap)
  rw [memWrite_ok hcells, State.cells_rx, hb.rxb]

theorem execRecvStart_of_readsFull {bus addr : Byte} {len : Half} {d : List Byte} {s v t : State}
    (hlen : len.toNat ≤ s.params.rxCapacity) (hcon : connect bus addr s = .ok () v) (hr : ReadsFull len.toNat v d t) :
    execRecvStart bus addr len s =
      .next (answered .ok (startFilled len (t.withCells .rx (s.rxb.writeBytes 0 d)))) := by
  obtain ⟨hb, -, -, -, -⟩ := connect_eq_ok hcon
  have hd : d.length = len.toNat := length_of_readsFull hr
  rw [execRecvStart, if_neg (by omega), hcon, Ran.andThen_ok, readRaw_of_readsFull hr, Ran.andThen_ok, if_pos rfl,
    memWrite_rx_of_onlyBus (hb.trans (onlyBus_of_readsFull hr)) (hd.trans_le hlen)]
  rfl

theorem drawnBytes_length (history : List Event) (n : Nat) : (drawnBytes history n).length = n := by
  simp [drawnBytes]

theorem execRecvStart_of_readsShort {bus addr : Byte} {len : Half} {s v t : State}
    (hlen : len.toNat ≤ s.params.rxCapacity) (hcon : connect bus addr s = .ok () v) (hr : ReadsShort len.toNat v t) :
    execRecvStart bus addr len s =
      .next (answered .busAckError (t.withCells .rx (s.rxb.writeBytes 0 (drawnBytes t.trace len.toNat)))) := by
  obtain ⟨hb, -, -, -, -⟩ := connect_eq_ok hcon
  obtain ⟨c, d, hc, hread⟩ := readRaw_of_readsShort hr
  have hdrawn : (drawnBytes t.trace len.toNat).length ≤ s.params.rxCapacity := (drawnBytes_length _ _).trans_le hlen
  rw [execRecvStart, if_neg (by omega), hcon, Ran.andThen_ok, hread, Ran.andThen_ok, if_neg hc,
    memWrite_rx_of_onlyBus (hb.trans (onlyBus_of_readsShort hr)) hdrawn]
  rfl

/-- Settles O24: the capacity check, the bus handle and one read, whose bytes (or drawn ones) are stored from cell 0. -/
theorem recvStartFillsFrame : Obligations.RecvStartFillsFrame := fun bus addr len _ =>
  ⟨⟨encode_cmd_and_cmdMask (.recvStart bus addr len), rfl⟩, execRecvStart_overflow bus addr,
    fun _ _ => execRecvStart_of_connect_raised,
    fun _ _ _ hlen hcon hr => ⟨_, stored_writeBytes _ _ _, execRecvStart_of_readsFull hlen hcon hr⟩,
    fun _ _ hlen hcon hr =>
      ⟨_, _, drawnBytes_length _ _, stored_writeBytes _ _ _, execRecvStart_of_readsShort hlen hcon hr⟩⟩

/-! ## RECV_SINGLE -/

theorem execRecvSingle_of_connect_raised {bus addr : Byte} {e : Status} {s v : State}
    (h : connect bus addr s = .raised e v) : execRecvSingle bus addr s = .next (answered e v) := by
  rw [execRecvSingle, h]
  rfl

theorem execRecvSingle_of_short_header {bus addr : Byte} {s v t : State} (hcon : connect bus addr s = .ok () v)
    (hr : ReadsShort 1 v t) : execRecvSingle bus addr s = .next (answered .busReadError t) := by
  rw [execRecvSingle, hcon, Ran.andThen_ok, readFully_of_readsShort hr]
  rfl

theorem execRecvSingle_of_short_length {bus addr : Byte} {h : List Byte} {s v v1 t : State}
    (hcon : connect bus addr s = .ok () v) (hh : ReadsFull 1 v h v1) (hr : ReadsShort 2 v1 t) :
    execRecvSingle bus addr s = .next (answered .busReadError t) := by
  rw [execRecvSingle, hcon, Ran.andThen_ok, readFully_of_readsFull hh, Ran.andThen_ok, readFully_of_readsShort hr]
  rfl

/-- What RECV_SINGLE does once it has its header `h` and the bytes `b` of its length (42_receive.md R170). -/
def readPayload (h b : List Byte) (s : State) : Ran Response :=
  if s.params.rsMaxPayload < payloadLength b then .raised .bufferOverflow s
  else
    (readFully (payloadLength b) s).andThen fun p s =>
    .ok (okResponse (BitVec.ofNat 16 (payloadLength b)) (h.getD 0 0) p) s

/-- After its first two reads, RECV_SINGLE checks the length and reads the payload. -/
theorem execRecvSingle_of_readsFull {bus addr : Byte} {h b : List Byte} {s v v1 v2 : State}
    (hcon : connect bus addr s = .ok () v) (hh : ReadsFull 1 v h v1) (hb : ReadsFull 2 v1 b v2) :
    execRecvSingle bus addr s = finish (readPayload h b v2) := by
  rw [execRecvSingle, hcon, Ran.andThen_ok, readFully_of_readsFull hh, Ran.andThen_ok, readFully_of_readsFull hb]
  rfl

theorem finish_readPayload_overflow (h : List Byte) {b : List Byte} {s : State}
    (hmax : s.params.rsMaxPayload < payloadLength b) :
    finish (readPayload h b s) = .next (answered .bufferOverflow s) := by
  rw [readPayload, if_pos hmax]
  rfl

theorem finish_readPayload_of_readsShort (h : List Byte) {b : List Byte} {s t : State}
    (hmax : payloadLength b ≤ s.params.rsMaxPayload) (hr : ReadsShort (payloadLength b) s t) :
    finish (readPayload h b s) = .next (answered .busReadError t) := by
  rw [readPayload, if_neg (by omega), readFully_of_readsShort hr]
  rfl

theorem finish_readPayload_of_readsFull (h : List Byte) {b p : List Byte} {s t : State}
    (hmax : payloadLength b ≤ s.params.rsMaxPayload) (hr : ReadsFull (payloadLength b) s p t) :
    finish (readPayload h b s) =
      .next (t.respond (okResponse (BitVec.ofNat 16 (payloadLength b)) (h.getD 0 0) p)) := by
  rw [readPayload, if_neg (by omega), readFully_of_readsFull hr]
  rfl

/-- A length of two bytes fits `RESULT`. -/
theorem toNat_ofNat_payloadLength (hi lo : Byte) :
    (BitVec.ofNat 16 (payloadLength [hi, lo])).toNat = payloadLength [hi, lo] := by
  have := hi.isLt
  have := lo.isLt
  rw [payloadLength_pair, BitVec.toNat_ofNat, Nat.mod_eq_of_lt (by omega)]

/-- Settles O29: a bus handle and up to three reads, each full, with the bound check before the third. -/
theorem recvSingleReadsRecord : Obligations.RecvSingleReadsRecord := by
  refine fun bus addr s => ⟨⟨encode_cmd_and_cmdMask (.recvSingle bus addr), rfl, rfl⟩,
    fun _ _ => execRecvSingle_of_connect_raised, fun s1 hcon =>
    ⟨fun _ => execRecvSingle_of_short_header hcon, fun h s2 hh =>
    ⟨fun _ => execRecvSingle_of_short_length hcon hh, fun hi lo s3 hb => ?_⟩⟩⟩
  have hbus : OnlyBus s s3 :=
    ((connect_eq_ok hcon).1.trans (onlyBus_of_readsFull hh)).trans (onlyBus_of_readsFull hb)
  rw [exec, execRecvSingle_of_readsFull hcon hh hb, ← hbus.params, ← payloadLength_pair]
  exact ⟨finish_readPayload_overflow [h], fun hmax =>
    ⟨fun _ => finish_readPayload_of_readsShort [h] hmax, fun p s4 hp =>
    ⟨_, toNat_ofNat_payloadLength hi lo, finish_readPayload_of_readsFull [h] hmax hp⟩⟩⟩

end Sys2Proof.Machine

/-! PROOF. The receive machine (42_receive.md R160): what each command makes of `RX_STATE`, what a RECV_START that fails
leaves (R162), and which command ends a frame (R166). -/

namespace Sys2Proof.Machine

open Sys2Proof.Safety

/-! ## Which commands change the receive side -/

/-- Only RECV_START, RECV_CONTINUE and RECV_STOP change the receive registers or `RXB`. -/
theorem FrameEffect.sameRx_or {i : Instr} {s u : State} (h : FrameEffect i s u) :
    SameRx s u ∨ (∃ bus addr len, i = .recvStart bus addr len) ∨ (∃ len, i = .recvContinue len) ∨
      ∃ len, i = .recvStop len := by
  cases h with
  | fill _ _ _ | spoil _ _ _ => exact .inr (.inl ⟨_, _, _, rfl⟩)
  | take _ _ => exact .inr (.inr (.inl ⟨_, rfl⟩))
  | release _ _ => exact .inr (.inr (.inr ⟨_, rfl⟩))
  | unchanged | start _ | append _ _ _ | close _ | appendAndClose _ _ _ | calculate | accumulate =>
    exact .inl ⟨rfl, rfl, rfl, fun _ => rfl⟩

/-- The same of a whole command, whose bus use and response leave the receive side alone. -/
theorem exec_sameRx_or {i : Instr} {s t : State} (h : exec i s = .next t) :
    SameRx s t ∨ (∃ bus addr len, i = .recvStart bus addr len) ∨ (∃ len, i = .recvContinue len) ∨
      ∃ len, i = .recvStop len := by
  obtain ⟨u, v, r, hu, hv, rfl⟩ := exec_completes h
  rw [hv.onlyBus]
  exact hu.sameRx_or

/-! ## RECV_START, by its status -/

/-- A RECV_START that succeeds had a bus handle and one full read, whose bytes are the frame. -/
theorem execRecvStart_of_answersOk {bus addr : Byte} {len : Half} {s t : State}
    (h : execRecvStart bus addr len s = .next t) (hok : AnswersOk s t) :
    ∃ v d, connect bus addr s = .ok () v ∧ d.length = len.toNat ∧
      t = answered .ok (startFilled len
        ((v.didRead len.toNat (.count len.toNat) d).withCells .rx (v.rxb.writeBytes 0 d))) := by
  rcases execRecvStart_next h with
    ⟨-, rfl⟩ | ⟨-, ⟨e, v, hcon, rfl⟩ | ⟨v, hcon, ⟨d, hd, rfl⟩ | ⟨c, d, b, -, -, rfl⟩⟩⟩
  · exact nomatch hok.status rfl
  · exact absurd hok (not_answersOk_of_connect_raised hcon rfl)
  · exact ⟨v, d, hcon, hd, rfl⟩
  · exact nomatch hok.status (connect_eq_ok hcon).1.responses

/-- A RECV_START that fails leaves the receive side, but that a short read stores `LEN` bytes. -/
theorem execRecvStart_of_error {bus addr : Byte} {len : Half} {s t : State} {r : Response}
    (h : execRecvStart bus addr len s = .next t) (hr : t.responses = s.responses ++ [r]) (he : r.status ≠ .ok) :
    (t.rxState = s.rxState ∧ t.rxLen = s.rxLen ∧ t.rxOff = s.rxOff) ∧
      ((r.status ≠ .busAckError ∧ t.rxb = s.rxb) ∨
        ∃ b, r.status = .busAckError ∧ b.length = len.toNat ∧ t.rxb = s.rxb.writeBytes 0 b) := by
  rcases execRecvStart_next h with
    ⟨-, rfl⟩ | ⟨-, ⟨e, v, hcon, rfl⟩ | ⟨v, hcon, ⟨d, -, rfl⟩ | ⟨c, d, b, -, hb, rfl⟩⟩⟩
  · rw [status_of_answered hr rfl]
    exact ⟨⟨rfl, rfl, rfl⟩, .inl ⟨nofun, rfl⟩⟩
  · obtain ⟨hbus, -, hstatus, -, -, -⟩ := connect_eq_raised hcon
    rw [status_of_answered hr hbus.responses]
    exact ⟨⟨hbus.rxState, hbus.rxLen, hbus.rxOff⟩, .inl ⟨by rcases hstatus with rfl | rfl <;> nofun, hbus.rxb⟩⟩
  · exact absurd (status_of_answered hr (connect_eq_ok hcon).1.responses) he
  · obtain ⟨hbus, -, -, -, -⟩ := connect_eq_ok hcon
    rw [status_of_answered hr hbus.responses]
    exact ⟨⟨hbus.rxState, hbus.rxLen, hbus.rxOff⟩, .inr ⟨b, rfl, hb, by rw [← hbus.rxb]; rfl⟩⟩

/-- Settles O25: the one error after a store is that of a short read, which stores below `LEN` only. -/
theorem failedRecvStartKeepsControlState : Obligations.FailedRecvStartKeepsControlState := by
  intro bus addr len e s t h hr he
  obtain ⟨hcontrol, ⟨hack, hcells⟩ | ⟨b, hack, hb, hcells⟩⟩ := execRecvStart_of_error h hr he
  · exact ⟨hcontrol, fun a _ => by rw [hcells], fun hack' => absurd hack' hack⟩
  · refine ⟨hcontrol, fun a ha => ?_, fun _ a ha => ?_⟩
    · have ha : len.toNat ≤ a := ha.resolve_left (absurd hack)
      rw [hcells, Memory.readByte_writeBytes_outside (.inr (by omega))]
    · have hwritten := written_append (written_zero s.rxb) b
      rw [hcells]
      exact hwritten a (by omega)

/-! ## The transition table -/

theorem exec_recvStart_rxState {bus addr : Byte} {len : Half} {s t : State} {r : Response}
    (h : exec (.recvStart bus addr len) s = .next t) (hr : t.responses = s.responses ++ [r]) :
    t.rxState = if r.status = .ok then .filled else s.rxState := by
  split
  · next hok =>
    obtain ⟨v, d, -, -, rfl⟩ := execRecvStart_of_answersOk h ⟨r, hr, hok⟩
    rfl
  · next he =>
    obtain ⟨⟨hstate, -, -⟩, -⟩ := execRecvStart_of_error h hr he
    exact hstate

theorem execRecvContinue_rxState {len : Half} {s t : State} (h : execRecvContinue len s = .next t) :
    t.rxState = s.rxState := by
  rcases execRecvContinue_next h with ⟨-, rfl⟩ | ⟨-, -, rfl⟩ | ⟨-, -, d, -, rfl⟩ <;> rfl

/-- The status of the response that `respond` appends. -/
theorem status_of_respond {v s : State} {x r : Response} (hr : (v.respond x).responses = s.responses ++ [r])
    (hv : v.responses = s.responses) : r.status = x.status := by
  rw [State.respond_responses, hv] at hr
  obtain rfl := List.singleton_inj.mp (List.append_cancel_left hr)
  rfl

theorem exec_recvStop_rxState {len : Half} {s t : State} {r : Response} (h : exec (.recvStop len) s = .next t)
    (hr : t.responses = s.responses ++ [r]) : t.rxState = if r.status = .ok then .idle else s.rxState := by
  rcases execRecvStop_next h with ⟨-, rfl⟩ | ⟨-, -, rfl⟩ | ⟨-, -, d, -, rfl⟩
  · rw [status_of_answered hr rfl]; rfl
  · rw [status_of_answered hr rfl]; rfl
  · rw [status_of_respond hr rfl]; rfl

/-- The row of a command in the table of R160. -/
theorem exec_rxState {i : Instr} {s t : State} {r : Response} (h : exec i s = .next t)
    (hr : t.responses = s.responses ++ [r]) : t.rxState = rxAfter i s.rxState r.status := by
  cases i with
  | recvStart bus addr len => exact exec_recvStart_rxState h hr
  | recvContinue len => exact execRecvContinue_rxState h
  | recvStop len => exact exec_recvStop_rxState h hr
  | sendStart | sendContinue | sendStop | sendSingle | wake | recvSingle | crcCalculate | crcAccumulate =>
    obtain ⟨hstate, -, -, -⟩ : SameRx s t := by simpa using exec_sameRx_or h
    exact hstate

theorem RxState.eq_idle_iff {st : RxState} : st = .idle ↔ st ≠ .filled := by cases st <;> simp

/-- Outside FILLED, RECV_CONTINUE and RECV_STOP fail their state check and change nothing. -/
theorem exec_of_not_filled {i : Instr} {s : State} (h : s.rxState ≠ .filled)
    (hi : (∃ len, i = .recvContinue len) ∨ ∃ len, i = .recvStop len) :
    exec i s = .next (answered .sequenceError s) := by
  rcases hi with ⟨len, rfl⟩ | ⟨len, rfl⟩
  · exact execRecvContinue_of_not_filled len h
  · exact execRecvStop_of_not_filled len h

/-- In FILLED a RECV_CONTINUE passes its state check. -/
theorem execRecvContinue_status {len : Half} {s t : State} {r : Response} (h : execRecvContinue len s = .next t)
    (hr : t.responses = s.responses ++ [r]) (hf : s.rxState = .filled) :
    r.status = .ok ∨ r.status = .bufferUnderflow := by
  rcases execRecvContinue_next h with ⟨hnf, -⟩ | ⟨-, -, rfl⟩ | ⟨-, -, d, -, rfl⟩
  · exact absurd hf hnf
  · exact .inr (status_of_answered hr rfl)
  · exact .inl (status_of_respond hr rfl)

/-- In FILLED a RECV_STOP passes its state check. -/
theorem execRecvStop_status {len : Half} {s t : State} {r : Response} (h : execRecvStop len s = .next t)
    (hr : t.responses = s.responses ++ [r]) (hf : s.rxState = .filled) :
    r.status = .ok ∨ r.status = .bufferUnderflow := by
  rcases execRecvStop_next h with ⟨hnf, -⟩ | ⟨-, -, rfl⟩ | ⟨-, -, d, -, rfl⟩
  · exact absurd hf hnf
  · exact .inr (status_of_answered hr rfl)
  · exact .inl (status_of_respond hr rfl)

/-- Settles O42: the rows of the table, and the state check of RECV_CONTINUE and RECV_STOP in both states. -/
theorem receiveTransitions : Obligations.ReceiveTransitions := by
  refine fun i s t r h hr => ⟨exec_rxState h hr, fun hidle hi => ?_, ?_⟩
  · cases h.symm.trans (exec_of_not_filled (RxState.eq_idle_iff.mp hidle) hi)
    exact status_of_answered hr rfl
  · rintro hf (⟨len, rfl⟩ | ⟨len, rfl⟩)
    · exact execRecvContinue_status h hr hf
    · exact execRecvStop_status h hr hf

/-- In the table of R160 only RECV_STOP leads from FILLED to IDLE. -/
theorem recvStop_of_rxAfter_idle {i : Instr} {e : Status} (h : rxAfter i .filled e = .idle) :
    ∃ len, i = .recvStop len := by
  cases i with
  | recvStop len => exact ⟨len, rfl⟩
  | recvStart => simp [rxAfter] at h
  | sendStart | sendContinue | sendStop | sendSingle | wake | recvContinue | recvSingle | crcCalculate
  | crcAccumulate => cases h

/-- Settles O28: by the table of R160, and a RECV_STOP of no bytes passes every check. -/
theorem onlyRecvStopLeavesFilled : Obligations.OnlyRecvStopLeavesFilled := by
  refine ⟨fun i s t h hs ht => ?_, fun len s t h hs => (execRecvContinue_rxState h).trans hs,
    fun s hs hoff => execRecvStop_zero hs hoff⟩
  obtain ⟨-, r, hr⟩ := (exec_completes h).answersOnce
  have htable := exec_rxState h hr
  rw [hs, ht] at htable
  exact recvStop_of_rxAfter_idle htable.symm

end Sys2Proof.Machine

/-! PROOF. A received frame read back (42_receive.md R173): what remains of it stands in `RXB` from `RX_OFF` on, each
RECV_CONTINUE takes bytes off its front, and no command between RECV_START and RECV_STOP reads from the bus. -/

namespace Sys2Proof.Machine

open Sys2Proof.Safety

/-! ## Bus reads -/

/-- From `s` to `t` the trace grew, and `ds` are the bus reads among the new events. -/
def Reads (ds : List Event) (s t : State) : Prop :=
  ∃ evs, t.trace = s.trace ++ evs ∧ evs.filter isRead = ds

theorem Reads.trans {ds ds' : List Event} {s t u : State} (h : Reads ds s t) (h' : Reads ds' t u) :
    Reads (ds ++ ds') s u := by
  obtain ⟨evs, ht, rfl⟩ := h
  obtain ⟨evs', hu, rfl⟩ := h'
  exact ⟨evs ++ evs', by rw [hu, ht, List.append_assoc], List.filter_append _ _⟩

theorem Reads.of_trace_eq {s t : State} (h : t.trace = s.trace) : Reads [] s t :=
  ⟨[], by rw [h, List.append_nil], rfl⟩

/-- One more event, no bus read. -/
theorem Reads.event {ds : List Event} {s t u : State} {e : Event} (h : Reads ds s t)
    (hu : u.trace = t.trace ++ [e]) (he : isRead e = false) : Reads ds s u := by
  have hone : Reads [] t u := ⟨[e], hu, by simp [he]⟩
  simpa using h.trans hone

/-- A bus handle that succeeds reads nothing. -/
theorem Reads.of_connect_ok {bus addr : Byte} {s t : State} (h : connect bus addr s = .ok () t) : Reads [] s t := by
  obtain ⟨-, htrace, -, -, -⟩ := connect_eq_ok h
  refine ⟨_, htrace, ?_⟩
  unfold handleEvents
  split <;> split <;> rfl

theorem handleFailures_filter_isRead {bus addr : Byte} {s : State} {evs : List Event}
    (h : evs ∈ handleFailures bus addr s) : evs.filter isRead = [] := by
  unfold handleFailures at h
  rcases List.mem_append.mp h with h | h <;> split at h
  · cases h
  · obtain rfl := List.mem_singleton.mp h
    rfl
  · cases h
  · obtain rfl := List.mem_singleton.mp h
    split <;> rfl

/-- A bus handle that fails reads nothing. -/
theorem Reads.of_connect_raised {bus addr : Byte} {e : Status} {s t : State} (h : connect bus addr s = .raised e t)
    (x : Status) : Reads [] s (answered x t) := by
  obtain ⟨-, ⟨evs, hevs, htrace⟩, -, -, -, -⟩ := connect_eq_raised h
  exact ⟨evs, htrace, handleFailures_filter_isRead hevs⟩

/-- SEND_STOP reads nothing from the bus. -/
theorem execSendStop_reads_nil {p : Bool} {bus addr : Byte} {len : Half} {din : List Byte} {s t : State}
    (h : execSendStop p bus addr len din s = .next t) : Reads [] s t := by
  have hclosed : Reads [] s (s.closed p len din) := .of_trace_eq (s.closed_trace p len din)
  rcases execSendStop_next h with
    ⟨-, rfl⟩ | ⟨-, -, -, rfl⟩ | ⟨-, -, ⟨e, v, hcon, rfl⟩ | ⟨v, bs, c, hcon, -, rfl⟩⟩
  · exact .of_trace_eq rfl
  · exact .of_trace_eq rfl
  · exact hclosed.trans (.of_connect_raised hcon e)
  · exact hclosed.trans ((Reads.of_connect_ok hcon).event rfl rfl)

theorem execSendSingle_reads_nil {bus addr : Byte} {len : Half} {din : List Byte} {s t : State}
    (h : execSendSingle bus addr len din s = .next t) : Reads [] s t := by
  rcases execSendSingle_next h with ⟨e, v, hcon, rfl⟩ | ⟨v, c, hcon, rfl⟩
  · exact .of_connect_raised hcon e
  · exact (Reads.of_connect_ok hcon).event rfl rfl

theorem execWake_reads_nil {bus addr : Byte} {s t : State} (h : execWake bus addr s = .next t) : Reads [] s t := by
  rcases execWake_next h with ⟨e, v, hcon, rfl⟩ | ⟨v, hcon, ⟨c, -, rfl⟩ | rfl⟩
  · exact .of_connect_raised hcon e
  · exact (Reads.of_connect_ok hcon).event rfl rfl
  · have hwrite : Reads [] s (v.tookWrite.record (.evWrite [0x00] (.count 1))) :=
      (Reads.of_connect_ok hcon).event rfl rfl
    exact hwrite.event rfl rfl

/-- The commands between RECV_START and RECV_STOP read nothing from the bus, whatever they answer. -/
theorem reads_nil_of_betweenReceive {i : Instr} {s t : State} (hi : betweenReceive i = true)
    (h : exec i s = .next t) : Reads [] s t := by
  cases i with
  | sendStop p bus addr len din => exact execSendStop_reads_nil h
  | sendSingle bus addr len din => exact execSendSingle_reads_nil h
  | wake bus addr => exact execWake_reads_nil h
  | sendStart | sendContinue | recvContinue | crcCalculate | crcAccumulate =>
    obtain ⟨u, r, hu, rfl⟩ := exec_next_of_busFields_none rfl h
    exact .of_trace_eq hu.trace
  | recvStart | recvStop | recvSingle => cases hi

/-! ## The rest of the frame -/

/-- A received frame is held, and `bs` are its bytes from `RX_OFF` to its end. -/
structure Remains (bs : List Byte) (s : State) : Prop where
  filled : s.rxState = .filled
  length : s.rxOff.toNat + bs.length = s.rxLen.toNat
  holds : Holds s.rxb s.rxOff.toNat bs

/-- What leaves the receive side alone leaves the frame. -/
theorem Remains.of_sameRx {bs : List Byte} {s t : State} (h : Remains bs s) (hst : SameRx s t) : Remains bs t := by
  obtain ⟨hstate, hlen, hoff, hcells⟩ := hst
  refine ⟨hstate.trans h.filled, by rw [hoff, hlen, h.length], fun k hk => ?_⟩
  rw [hoff, hcells, h.holds k hk]

/-- A RECV_START that succeeds reads the whole frame, in one bus read. -/
theorem execRecvStart_remains {bus addr : Byte} {len : Half} {s t : State}
    (h : execRecvStart bus addr len s = .next t) (hok : AnswersOk s t) :
    ∃ v d, t.trace = v.trace ++ [.evRead len.toNat (.count len.toNat) d] ∧ d.length = len.toNat ∧ Reads [] s v ∧
      Remains d t := by
  obtain ⟨v, d, hcon, hd, rfl⟩ := execRecvStart_of_answersOk h hok
  obtain ⟨hstored, -⟩ := stored_writeBytes v.rxb 0 d
  exact ⟨v, d, rfl, hd, .of_connect_ok hcon, rfl, by simp [startFilled, hd], hstored⟩

/-- The bytes read from the front of what remains are its first ones. -/
theorem Remains.take_eq {bs d : List Byte} {n : Nat} {s : State} (h : Remains bs s)
    (hfit : s.rxOff.toNat + n ≤ s.rxLen.toNat) (hd : s.rxb.readBytes s.rxOff.toNat n = some d) : d = bs.take n := by
  have hn : n ≤ bs.length := by have := h.length; omega
  have htake : s.rxb.readBytes s.rxOff.toNat n = some (bs.take n) := by
    refine readBytes_of_holds (List.length_take_of_le hn).symm fun k hk => ?_
    rw [List.length_take_of_le hn] at hk
    rw [h.holds k (by omega), List.getElem?_take_of_lt hk]
  exact Option.some.inj (hd.symm.trans htake)

/-- What remains after `RX_OFF` has moved within the frame. -/
theorem Remains.drop {bs : List Byte} {len : Half} {s : State} (h : Remains bs s)
    (hfit : s.rxOff.toNat + len.toNat ≤ s.rxLen.toNat) :
    Remains (bs.drop len.toNat) { s with rxOff := s.rxOff + len } := by
  have hlen := h.length
  have hoff : (s.rxOff + len).toNat = s.rxOff.toNat + len.toNat := toNat_add_of_le hfit
  refine ⟨h.filled, ?_, fun k hk => ?_⟩
  · show (s.rxOff + len).toNat + _ = s.rxLen.toNat
    rw [hoff, List.length_drop]
    omega
  · show s.rxb.readByte ((s.rxOff + len).toNat + k) = _
    rw [List.length_drop] at hk
    rw [hoff, Nat.add_assoc, h.holds _ (by omega), List.getElem?_drop]

/-! ## What a run gives back -/

/-- A RECV_CONTINUE or RECV_STOP is answered `OK`. -/
def TakesOk (i : Instr) (r : Response) : Prop :=
  (∃ len, i = .recvContinue len) ∨ (∃ len, i = .recvStop len) → r.status = .ok

/-- From `s` to `t` each of the instructions was answered, the takes of frame bytes with `OK`; their `DOUT` strings put
together are `bs`; and nothing was read from the bus. -/
structure GivesBack (is : List Instr) (bs : List Byte) (s t : State) : Prop where
  responses : ∃ rs, t.responses = s.responses ++ rs ∧ List.Forall₂ TakesOk is rs ∧ (rs.map Response.dout).flatten = bs
  reads : Reads [] s t

theorem GivesBack.cons {i : Instr} {is : List Instr} {d bs : List Byte} {s u t : State} (h : GivesBack [i] d s u)
    (h' : GivesBack is bs u t) : GivesBack (i :: is) (d ++ bs) s t := by
  obtain ⟨⟨rs, hrs, hall, rfl⟩, hreads⟩ := h
  obtain ⟨⟨rs', hrs', hall', rfl⟩, hreads'⟩ := h'
  refine ⟨⟨rs ++ rs', by rw [hrs', hrs, List.append_assoc], ?_, by simp⟩, hreads.trans hreads'⟩
  exact List.rel_append hall hall'

/-- One command, from its response. -/
theorem GivesBack.one {i : Instr} {r : Response} {s t : State} (hr : t.responses = s.responses ++ [r])
    (hok : TakesOk i r) (hreads : Reads [] s t) : GivesBack [i] r.dout s t :=
  ⟨⟨[r], hr, .cons hok .nil, by simp⟩, hreads⟩

/-- A RECV_CONTINUE within what remains gives back its first bytes and leaves the others. -/
theorem execRecvContinue_givesBack {len : Half} {bs : List Byte} {s t : State} (hs : Remains bs s)
    (hn : len.toNat ≤ bs.length) (h : execRecvContinue len s = .next t) :
    GivesBack [.recvContinue len] (bs.take len.toNat) s t ∧ Remains (bs.drop len.toNat) t := by
  have hlen := hs.length
  rcases execRecvContinue_next h with ⟨hnf, -⟩ | ⟨-, hover, -⟩ | ⟨-, hfit, d, hd, rfl⟩
  · exact absurd hs.filled hnf
  · omega
  · obtain rfl := hs.take_eq hfit hd
    have hrest := hs.drop hfit
    exact ⟨.one (r := okResponse 0 0 _) rfl (fun _ => rfl) (.of_trace_eq rfl), hrest.filled, hrest.length, hrest.holds⟩

/-- A RECV_STOP of all that remains gives it back and ends the frame. -/
theorem execRecvStop_givesBack {len : Half} {bs : List Byte} {s t : State} (hs : Remains bs s)
    (hn : len.toNat = bs.length) (h : execRecvStop len s = .next t) :
    GivesBack [.recvStop len] bs s t ∧ t.rxOff = 0 ∧ t.rxState = .idle := by
  have hlen := hs.length
  rcases execRecvStop_next h with ⟨hnf, -⟩ | ⟨-, hover, -⟩ | ⟨-, hfit, d, hd, rfl⟩
  · exact absurd hs.filled hnf
  · omega
  · obtain rfl : d = bs := by rw [hs.take_eq hfit hd, List.take_of_length_le hn.ge]
    exact ⟨.one (r := okResponse 0 0 _) rfl (fun _ => rfl) (.of_trace_eq rfl), rfl, rfl⟩

/-- A command between RECV_START and RECV_STOP gives back the bytes it takes, and leaves the others. -/
theorem exec_givesBack {i : Instr} {bs : List Byte} {s t : State} (hi : betweenReceive i = true) (hs : Remains bs s)
    (hn : takenOf i ≤ bs.length) (h : exec i s = .next t) :
    GivesBack [i] (bs.take (takenOf i)) s t ∧ Remains (bs.drop (takenOf i)) t := by
  cases i with
  | recvContinue len => exact execRecvContinue_givesBack hs hn h
  | sendStart | sendContinue | sendStop | sendSingle | wake | crcCalculate | crcAccumulate =>
    have hst : SameRx s t := by simpa using exec_sameRx_or h
    obtain ⟨r, hr, -, -, -, hdout⟩ := responseFieldsSet _ s t h
    have hdout : r.dout = [] := by simpa using hdout
    rw [takenOf, List.take_zero, List.drop_zero, ← hdout]
    exact ⟨.one hr (by simp [TakesOk]) (reads_nil_of_betweenReceive hi h), hs.of_sameRx hst⟩
  | recvStart | recvStop | recvSingle => cases hi

/-- From some point of the reading on, takes that sum to what remains give it back, and the last ends the frame. -/
theorem execAll_givesBack {mid : List Instr} {len : Half} {bs : List Byte} {s t : State}
    (hmid : ∀ i ∈ mid, betweenReceive i = true) (hs : Remains bs s)
    (hsum : bs.length = ((mid ++ [Instr.recvStop len]).map takenOf).sum)
    (h : execAll (mid ++ [.recvStop len]) s = .next t) :
    GivesBack (mid ++ [.recvStop len]) bs s t ∧ t.rxOff = 0 ∧ t.rxState = .idle := by
  induction mid generalizing bs s with
  | nil =>
    obtain ⟨u, hu, h⟩ := execAll_cons h
    cases h
    exact execRecvStop_givesBack hs hsum.symm hu
  | cons i mid ih =>
    obtain ⟨hi, hmid⟩ := List.forall_mem_cons.mp hmid
    obtain ⟨u, hu, h⟩ := execAll_cons h
    rw [List.cons_append, List.map_cons, List.sum_cons] at hsum
    obtain ⟨hone, hrest⟩ := exec_givesBack hi hs (by omega) hu
    obtain ⟨hall, hend⟩ := ih hmid hrest (by rw [List.length_drop]; omega) h
    have hgives := hone.cons hall
    rw [List.take_append_drop] at hgives
    exact ⟨hgives, hend⟩

/-- Settles O55: RECV_START reads the frame, in the one bus read, and the takes give back what remains of it. -/
theorem frameReadBackInOrder : Obligations.FrameReadBackInOrder := by
  intro bus addr N len D mid pre s u t h hr htrace hmid hN hrun
  obtain ⟨v, d, htrace', hlen, hv, hremains⟩ := execRecvStart_remains h ⟨_, hr, rfl⟩
  obtain rfl : D = d := by simpa using List.append_inj_right' (htrace.symm.trans htrace') rfl
  obtain ⟨⟨⟨rs, hrs, hall, hdout⟩, hreads⟩, hoff, hidle⟩ := execAll_givesBack hmid hremains (hlen.trans hN) hrun
  have hread : Reads [.evRead N.toNat (.count N.toNat) D] v u := ⟨_, htrace', rfl⟩
  refine ⟨⟨rs, hrs, by simpa using hall.length_eq.symm, hdout, fun k i r hi hk => ?_⟩, hoff, hidle,
    (hv.trans hread).trans hreads⟩
  obtain ⟨hki, rfl⟩ := List.getElem?_eq_some_iff.mp hi
  obtain ⟨hkr, rfl⟩ := List.getElem?_eq_some_iff.mp hk
  exact hall.get hki hkr

end Sys2Proof.Machine

/-! PROOF. The CRC engine's arithmetic (43_crc.md R191 to R193, R199). A reflected shift step is linear, and it only
shifts where the bit shifted out is 0. So the table is linear, and the fold by the table, which shifts the high byte and
looks up the low one, is eight shift steps of the whole register. -/

namespace Sys2Proof.Machine

/-! ## Shift steps -/

/-- The polynomial, where the bit shifted out is set. -/
def polyFor (out : Bool) : Half := if out then Config.crcPoly else 0

theorem shiftStep_eq (c : Half) : shiftStep c = (c >>> 1) ^^^ polyFor (c.getLsbD 0) := by
  rw [shiftStep, polyFor]
  cases c.getLsbD 0
  · exact BitVec.xor_zero.symm
  · rfl

theorem polyFor_xor (a b : Bool) : polyFor (a ^^ b) = polyFor a ^^^ polyFor b := by
  cases a <;> cases b <;> rfl

theorem shiftStep_xor (c d : Half) : shiftStep (c ^^^ d) = shiftStep c ^^^ shiftStep d := by
  simp only [shiftStep_eq, BitVec.getLsbD_xor, BitVec.ushiftRight_xor_distrib, polyFor_xor]
  ac_rfl

theorem repeat_shiftStep_xor (n : Nat) (c d : Half) :
    Nat.repeat shiftStep n (c ^^^ d) = Nat.repeat shiftStep n c ^^^ Nat.repeat shiftStep n d := by
  induction n with
  | zero => rfl
  | succ n ih => simp only [Nat.repeat, ih, shiftStep_xor]

/-- While only zeros are shifted out, the polynomial is not added. -/
theorem repeat_shiftStep_of_low_zero {n : Nat} {c : Half} (h : ∀ k < n, c.getLsbD k = false) :
    Nat.repeat shiftStep n c = c >>> n := by
  induction n with
  | zero => rfl
  | succ n ih =>
    have hbit : (c >>> n).getLsbD 0 = false := (BitVec.getLsbD_ushiftRight _ _ _).trans (h n n.lt_succ_self)
    rw [Nat.repeat, ih fun k hk => h k (hk.trans n.lt_succ_self), shiftStep, hbit, BitVec.shiftRight_add]
    rfl

/-! ## The table -/

/-- The `n` entries from `start` on, as R191 computes them. -/
def computedEntries (start n : Nat) : List Half := (List.range' start n).map fun i => tableEntry (.ofNat 8 i)

theorem computedEntries_append (start m n : Nat) :
    computedEntries start m ++ computedEntries (start + m) n = computedEntries start (m + n) := by
  simp only [computedEntries, ← List.map_append, List.range'_append_1]

/-- The numbers of R192 are the computed ones, compared a quarter at a time. -/
theorem crcRom_eq_computedEntries : crcRom = computedEntries 0 256 := by
  have h00 : crcRom00 = computedEntries 0x00 64 := by decide
  have h40 : crcRom40 = computedEntries 0x40 64 := by decide
  have h80 : crcRom80 = computedEntries 0x80 64 := by decide
  have hC0 : crcRomC0 = computedEntries 0xC0 64 := by decide
  rw [crcRom, h00, h40, h80, hC0, computedEntries_append 0 64 64, computedEntries_append 0 128 64,
    computedEntries_append 0 192 64]

theorem crcRom_getElem? (i : Byte) : crcRom[i.toNat]? = some (tableEntry i) := by
  rw [crcRom_eq_computedEntries, computedEntries, List.getElem?_map, List.getElem?_range' i.isLt, Option.map_some,
    Nat.one_mul, Nat.zero_add, BitVec.ofNat_toNat, BitVec.setWidth_eq]

theorem romRead_eq_tableEntry (i : Byte) : romRead i = tableEntry i := by
  rw [romRead, List.getD_eq_getElem?_getD, crcRom_getElem?, Option.getD_some]

theorem tableEntry_xor (i j : Byte) : tableEntry (i ^^^ j) = tableEntry i ^^^ tableEntry j := by
  rw [tableEntry, BitVec.setWidth_xor, repeat_shiftStep_xor, tableEntry, tableEntry]

/-- Settles O30: the numbers are the computed entries, and the computation is linear because each shift step is. -/
theorem romIsReflectedTable : Obligations.RomIsReflectedTable := by
  refine ⟨?_, crcRom_getElem?, by decide, fun i j => ?_, rfl⟩
  · rw [crcRom_eq_computedEntries, computedEntries, List.length_map, List.length_range']
  · simp only [romRead_eq_tableEntry, tableEntry_xor]

/-! ## The fold -/

/-- The mask of R193 is the cut to a byte. -/
theorem setWidth_and_0xFF (x : Half) : (x &&& 0xFF).setWidth 8 = x.setWidth 8 := by
  rw [BitVec.setWidth_and]
  exact BitVec.and_allOnes

/-- R193 with its index as a byte: the low byte of the register, and the byte folded. -/
theorem fold_eq (r : Half) (b : Byte) : fold r b = (r >>> 8) ^^^ romRead (r.setWidth 8 ^^^ b) := by
  rw [fold, setWidth_and_0xFF, BitVec.setWidth_xor, BitVec.setWidth_setWidth_of_le _ (by decide), BitVec.setWidth_eq]

/-- A byte has no high byte. -/
theorem setWidth_ushiftRight_eight (b : Byte) : b.setWidth 16 >>> 8 = 0#16 := by
  rw [← BitVec.setWidth_ushiftRight (by decide), BitVec.ushiftRight_eq_zero le_rfl, BitVec.setWidth_zero]

/-- Eight shift steps shift the high byte down, and make the low byte its table entry. -/
theorem repeat_shiftStep_eight (x : Half) : Nat.repeat shiftStep 8 x = (x >>> 8) ^^^ tableEntry (x.setWidth 8) := by
  have hlow : ∀ k < 8, (x ^^^ (x.setWidth 8).setWidth 16).getLsbD k = false := fun k hk => by
    simp [hk, show k < 16 by omega]
  calc Nat.repeat shiftStep 8 x
      = Nat.repeat shiftStep 8 ((x ^^^ (x.setWidth 8).setWidth 16) ^^^ (x.setWidth 8).setWidth 16) := by
        rw [BitVec.xor_assoc, BitVec.xor_self, BitVec.xor_zero]
    _ = ((x ^^^ (x.setWidth 8).setWidth 16) >>> 8) ^^^ tableEntry (x.setWidth 8) := by
        rw [repeat_shiftStep_xor, repeat_shiftStep_of_low_zero hlow, tableEntry]
    _ = (x >>> 8) ^^^ tableEntry (x.setWidth 8) := by
        rw [BitVec.ushiftRight_xor_distrib, setWidth_ushiftRight_eight, BitVec.xor_zero]

/-- The table fold is bit-serial: the byte folded reaches only the low byte, which is the part the table stands for. -/
theorem fold_eq_repeat_shiftStep (r : Half) (b : Byte) :
    fold r b = Nat.repeat shiftStep 8 (r ^^^ b.setWidth 16) := by
  rw [repeat_shiftStep_eight, BitVec.ushiftRight_xor_distrib, setWidth_ushiftRight_eight, fold_eq,
    romRead_eq_tableEntry, BitVec.setWidth_xor, BitVec.setWidth_setWidth_of_le _ (by decide), BitVec.setWidth_eq,
    BitVec.xor_zero]

/-- The table formula of R193 over natural numbers. -/
theorem toNat_fold (r : Half) (b : Byte) :
    (fold r b).toNat = r.toNat / 256 ^^^ (crcRom.getD ((r.toNat ^^^ b.toNat) % 256) 0).toNat := by
  have hindex : (r.setWidth 8 ^^^ b).toNat = (r.toNat ^^^ b.toNat) % 256 := by
    rw [BitVec.toNat_xor, BitVec.toNat_setWidth, Nat.xor_mod_two_pow (n := 8), Nat.mod_eq_of_lt b.isLt]
  rw [fold_eq, BitVec.toNat_xor, BitVec.toNat_ushiftRight, Nat.shiftRight_eq_div_pow, romRead, hindex]

theorem foldAll_append (r : Half) (as bs : List Byte) : foldAll r (as ++ bs) = foldAll (foldAll r as) bs :=
  List.foldl_append

/-- Settles O31: `foldAll` is a left fold, and `fold` is both the formula over numbers and the eight shift steps. -/
theorem foldIsBitSerial : Obligations.FoldIsBitSerial := fun r b _ =>
  ⟨toNat_fold r b, rfl, rfl, fold_eq_repeat_shiftStep r b⟩

/-! ## The residue -/

theorem xor_not_self {w : Nat} (x : BitVec w) : x ^^^ ~~~x = BitVec.allOnes w := by
  rw [← BitVec.not_xor_right, BitVec.xor_self, BitVec.not_zero]

/-- The complement of the low byte meets that byte in the table index 0xFF. -/
theorem fold_complement_low (r : Half) : fold r ((~~~r).setWidth 8) = (r >>> 8) ^^^ 0x0F78 := by
  rw [fold_eq, BitVec.setWidth_not (by decide), xor_not_self]
  rfl

/-- After that the high byte stands in the low byte, xored with 0x78; its complement meets it in the index 0x87. -/
theorem fold_complement_high (r : Half) : fold ((r >>> 8) ^^^ 0x0F78) ((~~~r >>> 8).setWidth 8) = 0xF0B8 := by
  have hhigh : ((r >>> 8) ^^^ 0x0F78) >>> 8 = 0x000F := by
    rw [BitVec.ushiftRight_xor_distrib, ← BitVec.shiftRight_add, BitVec.ushiftRight_eq_zero (by decide)]
    rfl
  have hbyte : (~~~r >>> 8).setWidth 8 = ~~~(r >>> 8).setWidth 8 := by
    ext k hk
    simp [show 8 + k < 16 by omega]
  have hindex : ((r >>> 8) ^^^ 0x0F78).setWidth 8 ^^^ (~~~r >>> 8).setWidth 8 = 0x87 := by
    rw [hbyte, BitVec.setWidth_xor, BitVec.xor_comm (BitVec.setWidth 8 _), BitVec.xor_assoc, xor_not_self]
    rfl
  rw [fold_eq, hhigh, hindex]
  rfl

/-- The bytes of its own complement bring every register to one value. -/
theorem foldAll_complement (r : Half) :
    foldAll r [(~~~r &&& 0xFF).setWidth 8, (~~~r >>> 8).setWidth 8] = 0xF0B8 := by
  rw [foldAll, List.foldl_cons, List.foldl_cons, List.foldl_nil, setWidth_and_0xFF, fold_complement_low,
    fold_complement_high]

/-- Settles O36: the CRC appended is the complement of the register it is folded into. -/
theorem crcResidueIsConstant : Obligations.CrcResidueIsConstant := by
  rintro d c rfl
  rw [foldAll_append, foldAll_complement]

end Sys2Proof.Machine

/-! PROOF. The CRC commands (43_crc.md R194, R195, R197, R200). Among the commands only they write `CRC_REG`; so from a
CRC_CALCULATE on it holds the fold of all bytes given so far, until the next CRC_CALCULATE. -/

namespace Sys2Proof.Machine

open Sys2Proof.Safety

/-! ## One command -/

/-- The complement that a CRC command answers, as R194 and R195 write it. -/
theorem not_eq_xor_0xFFFF (r : Half) : ~~~r = r ^^^ 0xFFFF := BitVec.xor_allOnes.symm

/-- Settles O32: the one next state of CRC_CALCULATE, with `CRC_INIT` as its number. -/
theorem crcCalculateStartsFresh : Obligations.CrcCalculateStartsFresh := fun len din s =>
  ⟨rfl, by rw [exec, execCrcCalculate_eq, not_eq_xor_0xFFFF]; rfl⟩

/-- Settles O33: the one next state of CRC_ACCUMULATE. -/
theorem crcAccumulateContinues : Obligations.CrcAccumulateContinues := fun len din s =>
  ⟨rfl, by rw [exec, execCrcAccumulate_eq, not_eq_xor_0xFFFF]; rfl⟩

/-- Settles O37: the one next state of CRC_ACCUMULATE, at reset, where `CRC_REG` is the open draw. -/
theorem crcAfterResetFoldsFromTheDraw : Obligations.CrcAfterResetFoldsFromTheDraw := fun len din =>
  ⟨_, execCrcAccumulate_eq len din State.reset, rfl, rfl⟩

/-! ## Several commands -/

/-- Only the CRC commands write `CRC_REG`. -/
theorem FrameEffect.crcReg {i : Instr} {s u : State} (h : FrameEffect i s u) (hc : ∀ l d, i ≠ .crcCalculate l d)
    (ha : ∀ l d, i ≠ .crcAccumulate l d) : u.crcReg = s.crcReg := by
  cases h with
  | unchanged | start | append | close | appendAndClose | fill | spoil | take | release => rfl
  | calculate => exact absurd rfl (hc _ _)
  | accumulate => exact absurd rfl (ha _ _)

/-- Every command but CRC_CALCULATE folds its accumulated bytes into `CRC_REG`, and most have none. -/
theorem exec_crcReg {i : Instr} {s t : State} (hi : ∀ l d, i ≠ .crcCalculate l d) (h : exec i s = .next t) :
    t.crcReg = foldAll s.crcReg (accumulatedBy i) := by
  cases i with
  | crcCalculate l d => exact absurd rfl (hi l d)
  | crcAccumulate l d => cases h; rfl
  | sendStart | sendContinue | sendStop | sendSingle | wake | recvStart | recvContinue | recvStop | recvSingle =>
    obtain ⟨u, v, r, hu, hv, rfl⟩ := exec_completes h
    exact hv.onlyBus.crcReg.trans (hu.crcReg nofun nofun)

/-- A run without CRC_CALCULATE that ends in a CRC_ACCUMULATE folds on over all accumulated bytes, and answers the
complement. -/
theorem execAll_crcAccumulate {mid : List Instr} {l : Half} {d : List Byte} {s t : State}
    (hmid : ∀ i ∈ mid, ∀ l d, i ≠ .crcCalculate l d) (h : execAll (mid ++ [.crcAccumulate l d]) s = .next t) :
    t.crcReg = foldAll s.crcReg (mid.flatMap accumulatedBy ++ d) ∧
      t.responses.getLast? = some ⟨.ok, ~~~t.crcReg, 0, []⟩ := by
  induction mid generalizing s with
  | nil =>
    cases h
    exact ⟨rfl, List.getLast?_concat⟩
  | cons i mid ih =>
    obtain ⟨hi, hmid⟩ := List.forall_mem_cons.mp hmid
    obtain ⟨u, hu, h⟩ := execAll_cons h
    obtain ⟨hreg, hlast⟩ := ih hmid h
    rw [exec_crcReg hi hu, ← foldAll_append, ← List.append_assoc, ← List.flatMap_cons] at hreg
    exact ⟨hreg, hlast⟩

/-- Settles O34: CRC_CALCULATE starts the fold, and the run after it folds on. -/
theorem splitCrcIsWholeCrc : Obligations.SplitCrcIsWholeCrc := by
  intro l l' lk d dk mid s t hmid h
  obtain ⟨v, hv, h⟩ := execAll_cons h
  cases hv
  obtain ⟨hreg, hlast⟩ := execAll_crcAccumulate hmid h
  rw [State.respond_crcReg, ← foldAll_append, ← List.append_assoc] at hreg
  refine ⟨_, execCrcCalculate_eq l' _ s, hreg, _, hlast, ?_⟩
  rw [hreg]
  exact List.getLast?_concat

end Sys2Proof.Machine

/-! PROOF. What can stop a step (60_exceptions.md R220; 10_state.md R40): from a good state every access to a buffer
stays within its space and reads written cells only, so that a call that is never answered is all that is left. -/

namespace Sys2Proof.Machine

open Sys2Proof.Safety

/-! ## Sub-steps that stop on unanswered calls only -/

/-- The environment never answers the call, made in this state (20_memory.md R66). -/
def BusCall.NeverAnswered (u : State) : BusCall → Prop
  | .openBus bus => openReply bus u = .never
  | .setAddr addr => setAddrReply addr u = .never
  | .write bs => writeReply bs u = .never
  | .read len => readReply len u = .never

/-- A stop that is a hang: the command waits for an answer that never comes. -/
inductive Fault.IsHang : Fault → Prop where
  | stuck {u : State} {c : BusCall} (h : c.NeverAnswered u) : IsHang (.stuck u c)

/-- A sub-step that goes on with a value and a state of which `Q` holds, raises an error, or hangs. -/
def Ran.Progresses {α : Type} (Q : α → State → Prop) : Ran α → Prop
  | .ok a s => Q a s
  | .raised _ _ => True
  | .stopped f => f.IsHang

/-- A sub-step that progresses, and then one that progresses from wherever it ends. -/
theorem Ran.Progresses.andThen {α β : Type} {r : Ran α} {k : α → State → Ran β} {Q : α → State → Prop}
    {R : β → State → Prop} (hr : r.Progresses Q) (hk : ∀ a s, Q a s → (k a s).Progresses R) :
    (r.andThen k).Progresses R := by
  cases r with
  | ok a s => exact hk a s hr
  | raised e s => trivial
  | stopped f => exact hr

/-- An outcome that is a next state, or a hang on a call that is never answered. -/
def CompletesOrHangs (o : Host.Outcome State Fault Refusal) : Prop :=
  (∃ t, o = .next t) ∨ ∃ u c, o = .fault (.stuck u c) ∧ c.NeverAnswered u

theorem completesOrHangs_next (t : State) : CompletesOrHangs (.next t) := .inl ⟨t, rfl⟩

/-- A command whose sub-steps progress completes or hangs. -/
theorem Ran.Progresses.finish {r : Ran Response} (h : r.Progresses fun _ _ => True) :
    CompletesOrHangs (Machine.finish r) := by
  cases r with
  | ok x s => exact completesOrHangs_next _
  | raised e s => exact completesOrHangs_next _
  | stopped f =>
    obtain @⟨u, c, hn⟩ := h
    exact .inr ⟨u, c, rfl, hn⟩

/-! ## The bus -/

/-- A bus handle progresses from any state, and changes nothing but the bus. -/
theorem connect_progresses (bus addr : Byte) (s : State) :
    (connect bus addr s).Progresses fun _ v => OnlyBus s v := by
  cases h : connect bus addr s with
  | ok u v => exact (connect_eq_ok h).1
  | raised e v => trivial
  | stopped f =>
    obtain ⟨t, -, ⟨rfl, hn⟩ | ⟨rfl, hn⟩⟩ := connect_eq_stopped h
    · exact .stuck hn
    · exact .stuck hn

theorem writeFully_progresses (bs : List Byte) (want : Nat) (s : State) :
    (writeFully bs want s).Progresses fun _ _ => True := by
  rcases writeFully_cases bs want s with ⟨hn, e⟩ | ⟨c, -, e⟩ | ⟨-, e⟩ <;> rw [e]
  · exact .stuck hn
  · trivial
  · trivial

theorem readFully_progresses (len : Nat) (s : State) : (readFully len s).Progresses fun _ _ => True := by
  rcases readFully_cases len s with ⟨hn, e⟩ | ⟨c, d, -, e⟩ | ⟨d, -, -, e⟩ <;> rw [e]
  · exact .stuck hn
  · trivial
  · trivial

/-- A bus read progresses from any state; its count is that of its bytes, and it changes nothing but the bus. -/
theorem readRaw_progresses (len : Nat) (s : State) :
    (readRaw len s).Progresses fun nd v => OnlyBus s v ∧ (nd.1 = .count len → nd.2.length = len) := by
  rcases readRaw_cases len s with ⟨hn, e⟩ | ⟨-, e⟩ | ⟨d, -, e⟩ <;> rw [e]
  · exact .stuck hn
  · exact ⟨rfl, nofun⟩
  · exact ⟨rfl, Count.count.inj⟩

/-! ## The buffers -/

theorem memWrite_progresses {sp : Space} {o : Nat} {bs : List Byte} {s : State} (h : s.hasCells sp o bs.length) :
    (memWrite sp o bs s).Progresses fun _ _ => True := by
  rw [memWrite_ok h]
  trivial

/-- A read of existing, written cells answers. -/
theorem memRead_progresses {sp : Space} {o n : Nat} {s : State} (hcells : s.hasCells sp o n)
    (hw : Written (s.cells sp) (o + n)) : (memRead sp o n s).Progresses fun _ _ => True := by
  obtain ⟨bs, hbs⟩ := Memory.readBytes_isSome (m := s.cells sp) (o := o) (n := n) fun k hk => hw (o + k) (by omega)
  rw [memRead_ok hcells hbs]
  trivial

/-- The bytes appended so far are written, and the frame's length is within the space: what a good state says of its
transmit side in ASSEMBLING. SEND_STOP needs it after it has left that state. -/
structure TxFrame (s : State) : Prop where
  offset : s.txOff.toNat ≤ s.txLen.toNat
  length : s.txLen.toNat ≤ s.params.txCapacity
  written : Written s.txb s.txOff.toNat

theorem TxFrame.of_goodState {s : State} (hs : GoodState s) (ha : s.txState = .assembling) : TxFrame s := by
  obtain ⟨-, ⟨htx, -⟩, -, ⟨hw, -⟩, -⟩ := hs
  exact ⟨(htx ha).1, (htx ha).2, hw ha⟩

theorem TxFrame.onlyBus {s v : State} (h : TxFrame s) (hb : OnlyBus s v) : TxFrame v := by
  rw [hb]
  exact ⟨h.offset, h.length, h.written⟩

/-- An append of `len` bytes raises or extends the frame within its length. -/
theorem TxFrame.appendFrame_progresses {s : State} (hs : TxFrame s) {len : Half} {bs : List Byte}
    (hbs : bs.length = len.toNat) : (appendFrame len bs s).Progresses fun _ t => TxFrame t := by
  rcases appendFrame_cases len bs s with ⟨-, e⟩ | ⟨hfit, -, e⟩ | ⟨hfit, hcells, -⟩
  · rw [e]; trivial
  · rw [e]
    have hoff := toNat_add_of_le hfit
    refine ⟨hoff.trans_le hfit, hs.length, ?_⟩
    rw [State.appended_txOff, hoff, ← hbs]
    exact written_append hs.written bs
  · exact absurd (.inr (by rw [hbs]; exact hfit.trans hs.length)) hcells

/-- The frame can be read back whole. -/
theorem TxFrame.memRead_progresses {s : State} (hs : TxFrame s) :
    (memRead .tx 0 s.txOff.toNat s).Progresses fun _ _ => True :=
  Machine.memRead_progresses (.inr (by rw [Nat.zero_add]; exact hs.offset.trans hs.length))
    (by rw [Nat.zero_add]; exact hs.written)

/-- In a good state that is FILLED, the frame's bytes raise or can be read. -/
theorem frameBytes_progresses {s : State} (hs : GoodState s) (hf : s.rxState = .filled) (len : Half) :
    (frameBytes len s).Progresses fun _ _ => True := by
  obtain ⟨-, ⟨-, hrx⟩, -, ⟨-, hw⟩, -⟩ := hs
  unfold frameBytes
  split
  · trivial
  · exact memRead_progresses (.inr (le_trans (by omega) (hrx hf).2)) fun a ha => hw hf a (by omega)

/-! ## The state checks -/

theorem requireAssembling_progresses (s : State) :
    (requireAssembling s).Progresses fun _ t => t = s ∧ s.txState = .assembling := by
  unfold requireAssembling
  split
  · exact ⟨rfl, ‹_›⟩
  · trivial

theorem requireFilled_progresses (s : State) :
    (requireFilled s).Progresses fun _ t => t = s ∧ s.rxState = .filled := by
  unfold requireFilled
  split
  · exact ⟨rfl, ‹_›⟩
  · trivial

/-! ## The commands -/

theorem execSendContinue_completesOrHangs {z : Bool} {len : Half} {din : List Byte} {s : State} (hs : GoodState s)
    (hwf : (Instr.sendContinue z len din).wellFormed = true) : CompletesOrHangs (execSendContinue z len din s) := by
  refine ((requireAssembling_progresses s).andThen ?_).finish
  rintro _ _ ⟨rfl, ha⟩
  exact ((TxFrame.of_goodState hs ha).appendFrame_progresses (continueBytes_length hwf)).andThen fun _ _ _ => trivial

/-- SEND_STOP: the frame, with its final element, is within the space and written, and the bus handle leaves it. -/
theorem execSendStop_completesOrHangs {p : Bool} {bus addr : Byte} {len : Half} {din : List Byte} {s : State}
    (hs : GoodState s) (hwf : (Instr.sendStop p bus addr len din).wellFormed = true) :
    CompletesOrHangs (execSendStop p bus addr len din s) := by
  refine ((requireAssembling_progresses s).andThen ?_).finish
  rintro _ s ⟨rfl, ha⟩
  obtain ⟨hoff, hlen, hw⟩ := TxFrame.of_goodState hs ha
  have hended : TxFrame (endAssembling s) := ⟨hoff, hlen, hw⟩
  have hclosed : (if p then appendFrame len din (endAssembling s)
      else .ok () (endAssembling s)).Progresses fun _ t => TxFrame t := by
    cases p with
    | true => exact hended.appendFrame_progresses (by simpa [Instr.wellFormed, dinFills] using hwf)
    | false => exact hended
  refine hclosed.andThen fun _ u hu => (connect_progresses bus addr u).andThen fun _ v hv => ?_
  exact (hu.onlyBus hv).memRead_progresses.andThen fun bs w _ => (writeFully_progresses bs _ w).andThen
    fun _ _ _ => trivial

theorem execSendSingle_completesOrHangs (bus addr : Byte) (len : Half) (din : List Byte) (s : State) :
    CompletesOrHangs (execSendSingle bus addr len din s) := by
  refine ((connect_progresses bus addr s).andThen fun _ v _ => ?_).finish
  exact (writeFully_progresses din len.toNat v).andThen fun _ _ _ => trivial

theorem execWake_completesOrHangs (bus addr : Byte) (s : State) : CompletesOrHangs (execWake bus addr s) := by
  refine ((connect_progresses bus addr s).andThen fun _ v _ => ?_).finish
  exact (writeFully_progresses wakeBytes 1 v).andThen fun _ _ _ => trivial

/-- RECV_START stores `LEN` bytes, read or drawn, and `LEN` is within the space. -/
theorem execRecvStart_completesOrHangs (bus addr : Byte) (len : Half) (s : State) :
    CompletesOrHangs (execRecvStart bus addr len s) := by
  refine Ran.Progresses.finish ?_
  split
  · trivial
  next hcap =>
  refine (connect_progresses bus addr s).andThen fun _ v hv => (readRaw_progresses len.toNat v).andThen ?_
  rintro ⟨c, d⟩ w ⟨hw, hd⟩
  have hcells (bs : List Byte) (hbs : bs.length = len.toNat) : w.hasCells .rx 0 bs.length := by
    rw [State.hasCells, State.capacity_rx, (hv.trans hw).params, hbs]
    omega
  split
  next hc => exact (memWrite_progresses (hcells d (hd hc))).andThen fun _ _ _ => trivial
  next => exact (memWrite_progresses (hcells _ (by simp [drawnBytes]))).andThen fun _ _ _ => trivial

theorem execRecvContinue_completesOrHangs {s : State} (hs : GoodState s) (len : Half) :
    CompletesOrHangs (execRecvContinue len s) := by
  refine ((requireFilled_progresses s).andThen ?_).finish
  rintro _ _ ⟨rfl, hf⟩
  exact (frameBytes_progresses hs hf len).andThen fun _ _ _ => trivial

theorem execRecvStop_completesOrHangs {s : State} (hs : GoodState s) (len : Half) :
    CompletesOrHangs (execRecvStop len s) := by
  refine ((requireFilled_progresses s).andThen ?_).finish
  rintro _ _ ⟨rfl, hf⟩
  exact (frameBytes_progresses hs hf len).andThen fun _ _ _ => trivial

/-- RECV_SINGLE stores nothing, so its three reads progress from any state. -/
theorem execRecvSingle_completesOrHangs (bus addr : Byte) (s : State) :
    CompletesOrHangs (execRecvSingle bus addr s) := by
  refine ((connect_progresses bus addr s).andThen fun _ v _ => (readFully_progresses 1 v).andThen fun _ w _ =>
    (readFully_progresses 2 w).andThen fun b x _ => ?_).finish
  split
  · trivial
  · exact (readFully_progresses (payloadLength b) x).andThen fun _ _ _ => trivial

/-- In a good state, a well-formed command completes or hangs. -/
theorem exec_completesOrHangs {i : Instr} {s : State} (hs : GoodState s) (hwf : i.wellFormed = true) :
    CompletesOrHangs (exec i s) := by
  cases i with
  | sendStart bus addr len =>
    refine Ran.Progresses.finish ?_
    split <;> trivial
  | sendContinue z len din => exact execSendContinue_completesOrHangs hs hwf
  | sendStop p bus addr len din => exact execSendStop_completesOrHangs hs hwf
  | sendSingle bus addr len din => exact execSendSingle_completesOrHangs bus addr len din s
  | wake bus addr => exact execWake_completesOrHangs bus addr s
  | recvStart bus addr len => exact execRecvStart_completesOrHangs bus addr len s
  | recvContinue len => exact execRecvContinue_completesOrHangs hs len
  | recvStop len => exact execRecvStop_completesOrHangs hs len
  | recvSingle bus addr => exact execRecvSingle_completesOrHangs bus addr s
  | crcCalculate | crcAccumulate => exact completesOrHangs_next _

/-- In a good state, a step completes or hangs: it waits, rejects its command, or runs it, well-formed as decoded. -/
theorem step_completesOrHangs {s : State} (hs : GoodState s) : CompletesOrHangs (step s) := by
  unfold step takeCommand
  cases s.pending with
  | nil => exact completesOrHangs_next s
  | cons c cs =>
    cases hd : decode c with
    | error e => simp only [hd]; exact completesOrHangs_next _
    | ok i => simp only [hd]; exact exec_completesOrHangs hs (wellFormed_of_decode hd)

/-- Settles O49: in a good state a step completes or hangs, and a hang names the call that is never answered. -/
theorem onlyUnansweredCallsStop : Obligations.OnlyUnansweredCallsStop := by
  intro s hs
  refine (step_completesOrHangs hs).imp_right ?_
  rintro ⟨u, c, h, hn⟩
  exact ⟨u, c, h, by cases c <;> exact hn⟩

end Sys2Proof.Machine

/-! PROOF. The errors (60_exceptions.md R210, R213, R217): which statuses each command answers with, and what a command
that answers an error has written. -/

namespace Sys2Proof.Machine

open Sys2Proof.Safety

/-! ## The statuses of a command -/

theorem ok_mem_statusesOf (i : Instr) : .ok ∈ statusesOf i := by
  cases i <;> exact List.mem_cons_self

/-- The row of a command with a bus handle lists the two errors of R110 and R111. -/
theorem handleErrors_mem_statusesOf {i : Instr} (hi : (busFields i).isSome = true) :
    .busOpenError ∈ statusesOf i ∧ .busAddressError ∈ statusesOf i := by
  cases i with
  | sendStop | sendSingle | wake | recvStart | recvSingle => simp [statusesOf]
  | sendStart | sendContinue | recvContinue | recvStop | crcCalculate | crcAccumulate => cases hi

/-- `t` ends with a response whose status the row of `i` lists. -/
def AnswersListed (i : Instr) (t : State) : Prop :=
  ∃ (v : State) (x : Response), t = v.respond x ∧ x.status ∈ statusesOf i

theorem AnswersListed.of_status {i : Instr} {e : Status} (v : State) (h : e ∈ statusesOf i := by simp [statusesOf]) :
    AnswersListed i (answered e v) := ⟨v, _, rfl, h⟩

theorem AnswersListed.of_okResponse (i : Instr) (v : State) (result : Half) (hdr : Byte) (dout : List Byte) :
    AnswersListed i (v.respond (okResponse result hdr dout)) := ⟨v, _, rfl, ok_mem_statusesOf i⟩

/-- A transfer whose error is listed. -/
theorem AnswersListed.of_transfer {i : Instr} {e : Status} (done : Prop) [Decidable done] (v : State)
    (h : e ∈ statusesOf i := by simp [statusesOf]) : AnswersListed i (answered (if done then .ok else e) v) := by
  split
  · exact .of_status v (ok_mem_statusesOf i)
  · exact .of_status v h

/-- A bus handle that raises. -/
theorem AnswersListed.of_connect_raised {i : Instr} {bus addr : Byte} {e : Status} {s v : State}
    (h : connect bus addr s = .raised e v) (hi : (busFields i).isSome = true := by rfl) :
    AnswersListed i (answered e v) := by
  obtain ⟨hopen, haddr⟩ := handleErrors_mem_statusesOf hi
  obtain ⟨-, -, rfl | rfl, -, -, -⟩ := connect_eq_raised h
  · exact .of_status v hopen
  · exact .of_status v haddr

/-- Every command that completes answers with a status its row of R210's table lists. -/
theorem exec_answersListed {i : Instr} {s t : State} (h : exec i s = .next t) : AnswersListed i t := by
  cases i with
  | sendStart bus addr len =>
    rcases execSendStart_next (bus := bus) (addr := addr) h with ⟨-, rfl⟩ | ⟨-, rfl⟩
    · exact .of_status _
    · exact .of_status _
  | sendContinue z len din =>
    rcases execSendContinue_next h with ⟨-, rfl⟩ | ⟨-, -, rfl⟩ | ⟨-, -, -, rfl⟩
    · exact .of_status _
    · exact .of_status _
    · exact .of_status _
  | sendStop p bus addr len din =>
    rcases execSendStop_next h with
      ⟨-, rfl⟩ | ⟨-, -, -, rfl⟩ | ⟨-, -, ⟨e, v, hcon, rfl⟩ | ⟨v, bs, c, -, -, rfl⟩⟩
    · exact .of_status _
    · exact .of_status _
    · exact .of_connect_raised hcon
    · exact .of_transfer _ _
  | sendSingle bus addr len din =>
    rcases execSendSingle_next h with ⟨e, v, hcon, rfl⟩ | ⟨v, c, -, rfl⟩
    · exact .of_connect_raised hcon
    · exact .of_transfer _ _
  | wake bus addr =>
    rcases execWake_next h with ⟨e, v, hcon, rfl⟩ | ⟨v, -, ⟨c, -, rfl⟩ | rfl⟩
    · exact .of_connect_raised hcon
    · exact .of_status _
    · exact .of_status _
  | recvStart bus addr len =>
    rcases execRecvStart_next h with
      ⟨-, rfl⟩ | ⟨-, ⟨e, v, hcon, rfl⟩ | ⟨v, -, ⟨d, -, rfl⟩ | ⟨c, d, b, -, -, rfl⟩⟩⟩
    · exact .of_status _
    · exact .of_connect_raised hcon
    · exact .of_status _
    · exact .of_status _
  | recvContinue len =>
    rcases execRecvContinue_next h with ⟨-, rfl⟩ | ⟨-, -, rfl⟩ | ⟨-, -, d, -, rfl⟩
    · exact .of_status _
    · exact .of_status _
    · exact .of_okResponse _ _ _ _ _
  | recvStop len =>
    rcases execRecvStop_next h with ⟨-, rfl⟩ | ⟨-, -, rfl⟩ | ⟨-, -, d, -, rfl⟩
    · exact .of_status _
    · exact .of_status _
    · exact .of_okResponse _ _ _ _ _
  | recvSingle bus addr =>
    rcases execRecvSingle_next h with ⟨e, v, hcon, rfl⟩ | ⟨v, -, ⟨c, d, -, rfl⟩ | ⟨d1, -,
      ⟨c, d, -, rfl⟩ | ⟨b, -, ⟨-, rfl⟩ | ⟨-, ⟨c, d, -, rfl⟩ | ⟨p, -, rfl⟩⟩⟩⟩⟩
    · exact .of_connect_raised hcon
    · exact .of_status _
    · exact .of_status _
    · exact .of_status _
    · exact .of_status _
    · exact .of_okResponse _ _ _ _ _
  | crcCalculate | crcAccumulate =>
    cases h
    exact .of_okResponse _ _ _ _ _

/-- The one response a completed command appends has a status of its row. -/
theorem exec_status {i : Instr} {s t : State} {r : Response} (h : exec i s = .next t)
    (hr : t.responses = s.responses ++ [r]) : r.status ∈ statusesOf i := by
  obtain ⟨-, q, hq⟩ := (exec_completes h).answersOnce
  obtain ⟨v, x, rfl, hx⟩ := exec_answersListed h
  obtain ⟨hv, -⟩ : v.responses = s.responses ∧ x = q := by simpa using hq
  rwa [status_of_respond hr hv]

/-- Settles O39: the numbers are the table's, and every command answers with a status of its row. -/
theorem statusesOfEachCommand : Obligations.StatusesOfEachCommand :=
  ⟨by decide, fun _ _ _ _ h hr => exec_status h hr⟩

/-! ## What an error leaves -/

/-- A command without a bus handle that answers an error changes nothing: its checks come before its writes. -/
theorem exec_error_of_busFields_none {i : Instr} {s t : State} {r : Response} (hi : busFields i = none)
    (h : exec i s = .next t) (hr : t.responses = s.responses ++ [r]) (he : r.status ≠ .ok) :
    t = answered r.status s := by
  cases i with
  | sendStart bus addr len =>
    rcases execSendStart_next (bus := bus) (addr := addr) h with ⟨-, rfl⟩ | ⟨-, rfl⟩
    · rw [status_of_answered hr rfl]
    · exact absurd (status_of_answered hr rfl) he
  | sendContinue z len din =>
    rcases execSendContinue_next h with ⟨-, rfl⟩ | ⟨-, -, rfl⟩ | ⟨-, -, -, rfl⟩
    · rw [status_of_answered hr rfl]
    · rw [status_of_answered hr rfl]
    · exact absurd (status_of_answered hr rfl) he
  | recvContinue len =>
    rcases execRecvContinue_next h with ⟨-, rfl⟩ | ⟨-, -, rfl⟩ | ⟨-, -, d, -, rfl⟩
    · rw [status_of_answered hr rfl]
    · rw [status_of_answered hr rfl]
    · exact absurd (status_of_respond hr rfl) he
  | recvStop len =>
    rcases execRecvStop_next h with ⟨-, rfl⟩ | ⟨-, -, rfl⟩ | ⟨-, -, d, -, rfl⟩
    · rw [status_of_answered hr rfl]
    · rw [status_of_answered hr rfl]
    · exact absurd (status_of_respond hr rfl) he
  | crcCalculate len din | crcAccumulate len din =>
    have hok := exec_status h hr
    exact absurd (List.mem_singleton.mp hok) he
  | sendStop | sendSingle | wake | recvStart | recvSingle => cases hi

/-- A SEND_STOP that answers an error of its own checks changes `TX_STATE` only, and SEQUENCE_ERROR not even that. -/
theorem execSendStop_ownError {p : Bool} {bus addr : Byte} {len : Half} {din : List Byte} {s t : State} {r : Response}
    (h : execSendStop p bus addr len din s = .next t) (hr : t.responses = s.responses ++ [r]) :
    (r.status = .sequenceError → t = answered r.status s) ∧
      (r.status = .bufferOverflow → t = answered r.status (endAssembling s)) := by
  rcases execSendStop_next h with
    ⟨-, rfl⟩ | ⟨-, -, -, rfl⟩ | ⟨-, -, ⟨e, v, hcon, rfl⟩ | ⟨v, bs, c, hcon, -, rfl⟩⟩
  · rw [status_of_answered hr rfl]
    exact ⟨fun _ => rfl, nofun⟩
  · rw [status_of_answered hr rfl]
    exact ⟨nofun, fun _ => rfl⟩
  · obtain ⟨hb, -, he, -, -, -⟩ := connect_eq_raised hcon
    rw [status_of_answered hr (hb.responses.trans (s.closed_responses p len din))]
    rcases he with rfl | rfl <;> exact ⟨nofun, nofun⟩
  · obtain ⟨hb, -, -, -, -⟩ := connect_eq_ok hcon
    rw [status_of_answered hr (hb.responses.trans (s.closed_responses p len din))]
    split <;> exact ⟨nofun, nofun⟩

/-- SEQUENCE_ERROR changes nothing: of the bus commands only SEND_STOP answers it, and from its first check. -/
theorem exec_sequenceError {i : Instr} {s t : State} {r : Response} (h : exec i s = .next t)
    (hr : t.responses = s.responses ++ [r]) (he : r.status = .sequenceError) : t = answered r.status s := by
  have hlisted := exec_status h hr
  rw [he] at hlisted
  cases i with
  | sendStop p bus addr len din => exact (execSendStop_ownError h hr).1 he
  | sendSingle | wake | recvStart | recvSingle => simp [statusesOf] at hlisted
  | sendStart | sendContinue | recvContinue | recvStop | crcCalculate | crcAccumulate =>
    exact exec_error_of_busFields_none rfl h hr (by rw [he]; nofun)

theorem sameTx_answered (e : Status) (s : State) : SameTx s (answered e s) := ⟨rfl, rfl, rfl, fun _ => rfl⟩

theorem sameRx_answered (e : Status) (s : State) : SameRx s (answered e s) := ⟨rfl, rfl, rfl, fun _ => rfl⟩

/-- Of the commands that fail only SEND_STOP changes the transmit side: SEND_START and SEND_CONTINUE use no bus. -/
theorem exec_error_sameTx {i : Instr} {s t : State} {r : Response} (h : exec i s = .next t)
    (hr : t.responses = s.responses ++ [r]) (he : r.status ≠ .ok)
    (hi : ∀ p bus addr len din, i ≠ .sendStop p bus addr len din) : SameTx s t := by
  rcases exec_sameTx_or h with hsame | ⟨bus, addr, len, rfl⟩ | ⟨-, ⟨z, len, din, rfl⟩ | ⟨p, bus, addr, len, din, rfl⟩⟩
  · exact hsame
  · rw [exec_error_of_busFields_none rfl h hr he]
    exact sameTx_answered _ s
  · rw [exec_error_of_busFields_none rfl h hr he]
    exact sameTx_answered _ s
  · exact absurd rfl (hi p bus addr len din)

/-- Of the errors only that of a short read changes the receive side. -/
theorem exec_error_sameRx {i : Instr} {s t : State} {r : Response} (h : exec i s = .next t)
    (hr : t.responses = s.responses ++ [r]) (he : r.status ≠ .ok) (hack : r.status ≠ .busAckError) : SameRx s t := by
  rcases exec_sameRx_or h with hsame | ⟨bus, addr, len, rfl⟩ | ⟨len, rfl⟩ | ⟨len, rfl⟩
  · exact hsame
  · obtain ⟨⟨hstate, hlen, hoff⟩, ⟨-, hcells⟩ | ⟨b, hack', -, -⟩⟩ := execRecvStart_of_error h hr he
    · exact ⟨hstate, hlen, hoff, fun _ => by rw [hcells]⟩
    · exact absurd hack' hack
  · rw [exec_error_of_busFields_none rfl h hr he]
    exact sameRx_answered _ s
  · rw [exec_error_of_busFields_none rfl h hr he]
    exact sameRx_answered _ s

/-- No error changes `CRC_REG`: the commands that write it answer `OK`. -/
theorem exec_error_crcReg {i : Instr} {s t : State} {r : Response} (h : exec i s = .next t)
    (hr : t.responses = s.responses ++ [r]) (he : r.status ≠ .ok) : t.crcReg = s.crcReg := by
  cases i with
  | crcCalculate | crcAccumulate =>
    rw [exec_error_of_busFields_none rfl h hr he]
    rfl
  | sendStart | sendContinue | sendStop | sendSingle | wake | recvStart | recvContinue | recvStop | recvSingle =>
    exact exec_crcReg (by nofun) h

/-- Settles O40: an error of a command's own checks comes before any write but SEND_STOP's of `TX_STATE`, and of the bus
errors only those of SEND_STOP and the short read of RECV_START follow a write to a buffer or its registers. -/
theorem failuresKeepOnlyListedWrites : Obligations.FailuresKeepOnlyListedWrites := by
  intro i e s t h hr he
  refine ⟨?_, ?_, exec_error_sameTx h hr he, exec_error_sameRx h hr he, exec_error_crcReg h hr he⟩
  · rintro (hi | hseq)
    · exact exec_error_of_busFields_none hi h hr he
    · exact exec_sequenceError h hr hseq
  · rintro hover p bus addr len din rfl
    exact (execSendStop_ownError h hr).2 hover

end Sys2Proof.Machine

/-! PROOF. Reset and the hazards of the bus number and of the shared CRC register (70_reset_and_hazards.md R240, R248,
R253). -/

namespace Sys2Proof.Machine

open Sys2Proof.Safety

/-! ## Reset -/

theorem reset_goodState : GoodState State.reset := by
  have hlegal : Config.defaultParams.legal := by decide
  obtain ⟨hoffsets, -⟩ := offsetsStayInBounds
  exact ⟨hlegal, hoffsets, reset_buffersCanonical, ⟨nofun, nofun⟩, nofun⟩

/-- Settles O46: each register has its reset value, and no frame and no address is held that the invariant speaks of. -/
theorem resetState : Obligations.ResetState :=
  ⟨rfl, rfl, rfl, rfl, rfl, rfl, rfl, reset_goodState⟩

/-! ## The shared CRC register -/

/-- Settles O35: the second CRC_CALCULATE starts the register anew, and the CRC_ACCUMULATE folds on from there. -/
theorem interleavedCrcsMix : Obligations.InterleavedCrcsMix := by
  intro l1 l2 l3 l4 a1 b1 a2 s
  refine ⟨_, _, rfl, execCrcCalculate_eq l4 (b1 ++ a2) s, ⟨_, List.getLast?_concat, rfl, rfl⟩, ?_, ?_⟩
  · rw [foldAll_append]
    exact List.getLast?_concat.trans List.getLast?_concat.symm
  · exact (foldAll_append _ b1 a2).symm

/-! ## The bus number -/

/-- Once the bus is open, opening it again does nothing, so its number does not count. -/
theorem connect_bus_irrelevant {s : State} (h : s.busOpen = true) (b b' addr : Byte) :
    connect b addr s = connect b' addr s := by
  rw [connect_of_opens addr (.inl h), connect_of_opens addr (.inl h), afterOpen_of_open b h, afterOpen_of_open b' h]

/-- Sub-steps that go on the same way from where the first one ends. -/
theorem Ran.andThen_congr {α β : Type} {r : Ran α} {k k' : α → State → Ran β}
    (h : ∀ a s, r = .ok a s → k a s = k' a s) : r.andThen k = r.andThen k' := by
  cases r with
  | ok a s => exact h a s rfl
  | raised e s => rfl
  | stopped f => rfl

/-- What SEND_STOP does before its bus handle leaves the bus open. -/
theorem closing_busOpen {p : Bool} {len : Half} {din : List Byte} {s t : State} {u : Unit}
    (h : (if p then appendFrame len din (endAssembling s) else .ok () (endAssembling s)) = .ok u t) :
    t.busOpen = s.busOpen := by
  cases p with
  | false => cases h; rfl
  | true =>
    rw [if_pos rfl] at h
    rcases appendFrame_cases len din (endAssembling s) with ⟨-, e⟩ | ⟨-, -, e⟩ | ⟨-, -, e⟩ <;> rw [e] at h <;> cases h
    rfl

theorem execSendStop_bus_irrelevant {s : State} (h : s.busOpen = true) (p : Bool) (b b' addr : Byte) (len : Half)
    (din : List Byte) : execSendStop p b addr len din s = execSendStop p b' addr len din s := by
  refine congrArg finish (Ran.andThen_congr fun _ t ht => Ran.andThen_congr fun _ u hu => ?_)
  have hchecked := requireAssembling_progresses s
  rw [ht] at hchecked
  obtain ⟨rfl, -⟩ := hchecked
  rw [connect_bus_irrelevant ((closing_busOpen hu).trans h) b b']

/-- Settles O13: SEND_START reads no bus number, and the other five read it in their bus handle only. -/
theorem openBusIgnoresTheBusField : Obligations.OpenBusIgnoresTheBusField := by
  intro b b' addr p len din s h
  have hconnect := connect_bus_irrelevant h b b' addr
  refine ⟨rfl, execSendStop_bus_irrelevant h p b b' addr len din, ?_, ?_, ?_, ?_⟩
  · simp only [exec, execSendSingle, hconnect]
  · simp only [exec, execWake, hconnect]
  · simp only [exec, execRecvStart, hconnect]
  · simp only [exec, execRecvSingle, hconnect]

end Sys2Proof.Machine

/-! PROOF. Two runs side by side (70_reset_and_hazards.md R242): from states that agree but for `CRC_REG` and the values
that are unspecified and unobservable, every sub-step of a command other than CRC_ACCUMULATE goes on with the same value,
raises the same error or stops on the same call, in states that agree so again. -/

namespace Sys2Proof.Machine

open Sys2Proof.Safety

/-! ## States that look alike -/

/-- The two states look the same to the bus: `CUR_ADDR` counts only while it is valid. -/
structure SameBus (s t : State) : Prop where
  busOpen : s.busOpen = t.busOpen
  curAddrValid : s.curAddrValid = t.curAddrValid
  curAddr : s.curAddrValid = true → s.curAddr = t.curAddr
  answers : s.answers = t.answers
  trace : s.trace = t.trace

/-- The two states hold the same transmit frame: what has been appended, and where. -/
structure SameTxFrame (s t : State) : Prop where
  txLen : s.txLen = t.txLen
  txOff : s.txOff = t.txOff
  txb : ∀ o, o < s.txOff.toNat → s.txb.readByte o = t.txb.readByte o

/-- The two states hold the same received frame. -/
structure SameRxFrame (s t : State) : Prop where
  rxLen : s.rxLen = t.rxLen
  rxOff : s.rxOff = t.rxOff
  rxb : ∀ o, o < s.rxLen.toNat → s.rxb.readByte o = t.rxb.readByte o

/-- `Indistinguishable`, its parts named. -/
structure Alike (s t : State) : Prop where
  params : s.params = t.params
  pending : s.pending = t.pending
  responses : s.responses = t.responses
  bus : SameBus s t
  txState : s.txState = t.txState
  txFrame : s.txState = .assembling → SameTxFrame s t
  rxState : s.rxState = t.rxState
  rxFrame : s.rxState = .filled → SameRxFrame s t

theorem alike_iff_indistinguishable {s t : State} : Alike s t ↔ Indistinguishable s t := by
  constructor
  · rintro ⟨hparams, hpending, hresponses, ⟨hopen, hvalid, haddr, hanswers, htrace⟩, htxState, htx, hrxState, hrx⟩
    refine ⟨hparams, hpending, hanswers, htrace, hresponses, hopen, hvalid, haddr, htxState, fun ha => ?_, hrxState,
      fun hf => ?_⟩
    · obtain ⟨hlen, hoff, hcells⟩ := htx ha
      exact ⟨hlen, hoff, hcells⟩
    · obtain ⟨hlen, hoff, hcells⟩ := hrx hf
      exact ⟨hlen, hoff, hcells⟩
  · rintro ⟨hparams, hpending, hanswers, htrace, hresponses, hopen, hvalid, haddr, htxState, htx, hrxState, hrx⟩
    refine ⟨hparams, hpending, hresponses, ⟨hopen, hvalid, haddr, hanswers, htrace⟩, htxState, fun ha => ?_, hrxState,
      fun hf => ?_⟩
    · obtain ⟨hlen, hoff, hcells⟩ := htx ha
      exact ⟨hlen, hoff, hcells⟩
    · obtain ⟨hlen, hoff, hcells⟩ := hrx hf
      exact ⟨hlen, hoff, hcells⟩

theorem Alike.refl (s : State) : Alike s s where
  params := rfl
  pending := rfl
  responses := rfl
  bus := ⟨rfl, rfl, fun _ => rfl, rfl, rfl⟩
  txState := rfl
  txFrame _ := ⟨rfl, rfl, fun _ _ => rfl⟩
  rxState := rfl
  rxFrame _ := ⟨rfl, rfl, fun _ _ => rfl⟩

/-- The same response to both. -/
theorem Alike.respond {s t : State} (h : Alike s t) (r : Response) : Alike (s.respond r) (t.respond r) :=
  { h with
    responses := congrArg (· ++ [r]) h.responses
    bus := { h.bus with }
    txFrame := fun ha => { h.txFrame ha with }
    rxFrame := fun hf => { h.rxFrame hf with } }

/-- `CRC_REG` does not count. -/
theorem Alike.withCrc {s t : State} (h : Alike s t) (c : Half) : Alike { s with crcReg := c } { t with crcReg := c } :=
  { h with
    bus := { h.bus with }
    txFrame := fun ha => { h.txFrame ha with }
    rxFrame := fun hf => { h.rxFrame hf with } }

theorem Alike.startAssembling {s t : State} (h : Alike s t) (len : Half) :
    Alike (startAssembling len s) (startAssembling len t) :=
  { h with
    bus := { h.bus with }
    txState := rfl
    txFrame := fun _ => ⟨rfl, rfl, nofun⟩
    rxFrame := fun hf => { h.rxFrame hf with } }

theorem Alike.endAssembling {s t : State} (h : Alike s t) : Alike (endAssembling s) (endAssembling t) :=
  { h with
    bus := { h.bus with }
    txState := rfl
    txFrame := nofun
    rxFrame := fun hf => { h.rxFrame hf with } }

/-- `RX_OFF` moved on by the same length. -/
theorem Alike.takeRx {s t : State} (h : Alike s t) (len : Half) :
    Alike { s with rxOff := s.rxOff + len } { t with rxOff := t.rxOff + len } :=
  { h with
    bus := { h.bus with }
    txFrame := fun ha => { h.txFrame ha with }
    rxFrame := fun hf => { h.rxFrame hf with rxOff := congrArg (· + len) (h.rxFrame hf).rxOff } }

theorem Alike.endFilled {s t : State} (h : Alike s t) : Alike (endFilled s) (endFilled t) :=
  { h with
    bus := { h.bus with }
    txFrame := fun ha => { h.txFrame ha with }
    rxState := rfl
    rxFrame := nofun }

theorem SameTxFrame.onlyBus {s t s' t' : State} (h : SameTxFrame s t) (hs : OnlyBus s s') (ht : OnlyBus t t') :
    SameTxFrame s' t' := by
  rw [hs, ht]
  exact { h with }

/-- Bus calls that leave the bus alike leave the states alike. -/
theorem Alike.onlyBus {s t s' t' : State} (h : Alike s t) (hs : OnlyBus s s') (ht : OnlyBus t t')
    (hbus : SameBus s' t') : Alike s' t' := by
  rw [hs, ht] at hbus ⊢
  exact { h with
    bus := hbus
    txFrame := fun ha => { h.txFrame ha with }
    rxFrame := fun hf => { h.rxFrame hf with } }

/-! ## Two sub-steps that run alike -/

/-- Both sub-steps end the same way, with the same value, error or unanswered call, in states that `R` relates; or both
stop with the same fault, the state in it included. -/
inductive Ran.Match {α : Type} (R : State → State → Prop) : Ran α → Ran α → Prop where
  | ok (a : α) {s t : State} (h : R s t) : Match R (.ok a s) (.ok a t)
  | raised (e : Status) {s t : State} (h : R s t) : Match R (.raised e s) (.raised e t)
  | stuck (c : BusCall) {s t : State} (h : R s t) : Match R (.stopped (.stuck s c)) (.stopped (.stuck t c))
  | fault (f : Fault) : Match R (.stopped f) (.stopped f)

theorem Ran.Match.mono {α : Type} {R R' : State → State → Prop} {r r' : Ran α} (h : r.Match R r')
    (hR : ∀ s t, R s t → R' s t) : r.Match R' r' := by
  cases h with
  | ok a h => exact .ok a (hR _ _ h)
  | raised e h => exact .raised e (hR _ _ h)
  | stuck c h => exact .stuck c (hR _ _ h)
  | fault f => exact .fault f

/-- Sub-steps that run alike, one after the other. -/
theorem Ran.Match.andThen {α β : Type} {R : State → State → Prop} {r r' : Ran α} {k k' : α → State → Ran β}
    (h : r.Match R r') (hk : ∀ a s t, r = .ok a s → R s t → (k a s).Match R (k' a t)) :
    (r.andThen k).Match R (r'.andThen k') := by
  cases h with
  | ok a h => exact hk a _ _ rfl h
  | raised e h => exact .raised e h
  | stuck c h => exact .stuck c h
  | fault f => exact .fault f

/-- Two commands whose sub-steps run alike match, where the first completes or hangs. -/
theorem Ran.Match.finish {r r' : Ran Response} (h : r.Match Alike r') (hs : CompletesOrHangs (Machine.finish r)) :
    OutcomesMatch Indistinguishable (Machine.finish r) (Machine.finish r') := by
  cases h with
  | ok x h => exact alike_iff_indistinguishable.mp (h.respond x)
  | raised e h => exact alike_iff_indistinguishable.mp (h.respond _)
  | stuck c h => exact ⟨alike_iff_indistinguishable.mp h, rfl⟩
  | fault f =>
    rcases hs with ⟨t, ⟨⟩⟩ | ⟨u, c, hf, -⟩
    cases hf
    exact ⟨alike_iff_indistinguishable.mp (.refl u), rfl⟩

/-! ## The bus -/

/-- A relation of states that bus calls keep, as long as they leave the bus alike. -/
structure KeptByBus (R : State → State → Prop) : Prop where
  sameBus : ∀ {s t}, R s t → SameBus s t
  onlyBus : ∀ {s t s' t'}, R s t → OnlyBus s s' → OnlyBus t t' → SameBus s' t' → R s' t'

theorem keptByBus_alike : KeptByBus Alike := ⟨Alike.bus, Alike.onlyBus⟩

/-- Alike, and with the same transmit frame: SEND_STOP relies on its frame after it has left ASSEMBLING. -/
structure AlikeWithFrame (s t : State) : Prop where
  alike : Alike s t
  frame : SameTxFrame s t

theorem keptByBus_alikeWithFrame : KeptByBus AlikeWithFrame where
  sameBus h := h.alike.bus
  onlyBus h hs ht hbus := ⟨h.alike.onlyBus hs ht hbus, h.frame.onlyBus hs ht⟩

theorem requireCount_match {R : State → State → Prop} {s t : State} (h : R s t) (n : Count) (want : Nat) (e : Status) :
    (requireCount n want e s).Match R (requireCount n want e t) := by
  unfold requireCount
  split
  · exact .ok () h
  · exact .raised e h

section Bus
variable {R : State → State → Prop} (hR : KeptByBus R) {s t : State} (h : R s t)

include hR h

theorem ensureOpen_match (bus : Byte) : (ensureOpen bus s).Match R (ensureOpen bus t) := by
  have hbus := hR.sameBus h
  have hreply : openReply bus s = openReply bus t := by unfold openReply; rw [hbus.answers, hbus.trace]
  have htook (e : Event) : SameBus (s.tookOpen.record e) (t.tookOpen.record e) :=
    { hbus with
      answers := by simp [hbus.answers]
      trace := by simp [hbus.trace] }
  unfold ensureOpen callOpen
  rw [hreply, hbus.busOpen]
  split
  · exact .ok () h
  · cases openReply bus t with
    | never => exact .stuck _ h
    | err => exact .raised _ (hR.onlyBus h rfl rfl (htook _))
    | ok _ => exact .ok () (hR.onlyBus h rfl rfl { htook (.evOpen bus .ok) with busOpen := rfl })

theorem ensureAddressed_match (addr : Byte) : (ensureAddressed addr s).Match R (ensureAddressed addr t) := by
  have hbus := hR.sameBus h
  have hreply : setAddrReply addr s = setAddrReply addr t := by unfold setAddrReply; rw [hbus.answers, hbus.trace]
  have hcached : s.curAddrValid = true ∧ s.curAddr = addr ↔ t.curAddrValid = true ∧ t.curAddr = addr := by
    rw [← hbus.curAddrValid]
    exact and_congr_right fun hv => by rw [hbus.curAddr hv]
  have htook (e : Event) : (s.tookSetAddr.record e).busOpen = (t.tookSetAddr.record e).busOpen ∧
      (s.tookSetAddr.record e).answers = (t.tookSetAddr.record e).answers ∧
      (s.tookSetAddr.record e).trace = (t.tookSetAddr.record e).trace := by
    simp [hbus.busOpen, hbus.answers, hbus.trace]
  unfold ensureAddressed callSetAddr
  rw [hreply]
  simp only [hcached]
  split
  · exact .ok () h
  · cases setAddrReply addr t with
    | never => exact .stuck _ h
    | err =>
      obtain ⟨hopen, hanswers, htrace⟩ := htook (.evSetAddr addr .err)
      exact .raised _ (hR.onlyBus h rfl rfl ⟨hopen, rfl, nofun, hanswers, htrace⟩)
    | ok _ =>
      obtain ⟨hopen, hanswers, htrace⟩ := htook (.evSetAddr addr .ok)
      exact .ok () (hR.onlyBus h rfl rfl ⟨hopen, rfl, fun _ => rfl, hanswers, htrace⟩)

theorem connect_match (bus addr : Byte) : (connect bus addr s).Match R (connect bus addr t) :=
  (ensureOpen_match hR h bus).andThen fun _ _ _ _ h => ensureAddressed_match hR h addr

theorem writeFully_match (bs : List Byte) (want : Nat) : (writeFully bs want s).Match R (writeFully bs want t) := by
  have hbus := hR.sameBus h
  have hreply : writeReply bs s = writeReply bs t := by unfold writeReply; rw [hbus.answers, hbus.trace]
  have hwrote (e : Event) : R (s.tookWrite.record e) (t.tookWrite.record e) :=
    hR.onlyBus h rfl rfl { hbus with
      answers := by simp [hbus.answers]
      trace := by simp [hbus.trace] }
  unfold writeFully writeRaw
  rw [hreply]
  cases writeReply bs t with
  | never => exact .stuck _ h
  | err => exact requireCount_match (hwrote _) _ _ _
  | ok n => exact requireCount_match (hwrote _) _ _ _

theorem readRaw_match (len : Nat) : (readRaw len s).Match R (readRaw len t) := by
  have hbus := hR.sameBus h
  have hreply : readReply len s = readReply len t := by unfold readReply; rw [hbus.answers, hbus.trace]
  have hread (e : Event) : R (s.tookRead.record e) (t.tookRead.record e) :=
    hR.onlyBus h rfl rfl { hbus with
      answers := by simp [hbus.answers]
      trace := by simp [hbus.trace] }
  unfold readRaw
  rw [hreply]
  cases readReply len t with
  | never => exact .stuck _ h
  | err => exact .ok _ (hread _)
  | ok d => exact .ok _ (hread _)

theorem readFully_match (len : Nat) : (readFully len s).Match R (readFully len t) :=
  (readRaw_match hR h len).andThen fun nd _ _ _ h =>
    (requireCount_match h nd.1 len _).andThen fun _ _ _ _ h => .ok nd.2 h

theorem delay_match (ms : Nat) : (delay ms s).Match R (delay ms t) :=
  .ok () (hR.onlyBus h rfl rfl { hR.sameBus h with trace := by simp [(hR.sameBus h).trace] })

end Bus

/-! ## The buffers -/

/-- A read of cells that hold the same. -/
theorem memRead_match {R : State → State → Prop} {sp : Space} {o n : Nat} {s t : State} (h : R s t)
    (hcap : s.capacity sp = t.capacity sp)
    (hcells : ∀ k, k < n → (s.cells sp).readByte (o + k) = (t.cells sp).readByte (o + k)) :
    (memRead sp o n s).Match R (memRead sp o n t) := by
  unfold memRead State.hasCells
  rw [hcap, Memory.readBytes_congr hcells]
  split
  · cases (t.cells sp).readBytes o n with
    | none => exact .fault _
    | some bs => exact .ok bs h
  · exact .fault _

/-- A write of the same bytes, and what follows it. -/
theorem memWrite_match {α : Type} {R : State → State → Prop} {sp : Space} {o : Nat} {bs : List Byte} {s t : State}
    {k k' : Unit → State → Ran α} (hcap : s.capacity sp = t.capacity sp)
    (hk : (k () (s.withCells sp ((s.cells sp).writeBytes o bs))).Match R
      (k' () (t.withCells sp ((t.cells sp).writeBytes o bs)))) :
    ((memWrite sp o bs s).andThen k).Match R ((memWrite sp o bs t).andThen k') := by
  unfold memWrite State.hasCells
  rw [hcap]
  split
  · exact hk
  · exact .fault _

/-- The same bytes written over cells: a cell holds the same after, if it did before or is one of those written. -/
theorem readByte_writeBytes_congr {m m' : Memory} {o a : Nat} (bs : List Byte)
    (h : o ≤ a ∧ a < o + bs.length ∨ m.readByte a = m'.readByte a) :
    (m.writeBytes o bs).readByte a = (m'.writeBytes o bs).readByte a := by
  rw [Memory.readByte_writeBytes, Memory.readByte_writeBytes]
  split
  · rfl
  · exact h.resolve_left ‹_›

theorem SameTxFrame.appended {s t : State} (h : SameTxFrame s t) {len : Half} {bs : List Byte}
    (hbs : bs.length = len.toNat) (hfit : s.txOff.toNat + len.toNat ≤ s.txLen.toNat) :
    SameTxFrame (s.appended len bs) (t.appended len bs) where
  txLen := h.txLen
  txOff := congrArg (· + len) h.txOff
  txb a ha := by
    rw [State.appended_txOff, toNat_add_of_le hfit] at ha
    rw [State.appended_txb, State.appended_txb, ← h.txOff]
    refine readByte_writeBytes_congr bs ?_
    by_cases hold : a < s.txOff.toNat
    · exact .inr (h.txb a hold)
    · exact .inl (by omega)

/-- The same append to the same frame. -/
theorem AlikeWithFrame.appended {s t : State} (h : AlikeWithFrame s t) {len : Half} {bs : List Byte}
    (hbs : bs.length = len.toNat) (hfit : s.txOff.toNat + len.toNat ≤ s.txLen.toNat) :
    AlikeWithFrame (s.appended len bs) (t.appended len bs) where
  alike := { h.alike with
    bus := { h.alike.bus with }
    txFrame := fun _ => h.frame.appended hbs hfit
    rxFrame := fun hf => { h.alike.rxFrame hf with } }
  frame := h.frame.appended hbs hfit

theorem appendFrame_eq (len : Half) (bs : List Byte) (s : State) :
    appendFrame len bs s =
      if s.txLen.toNat < s.txOff.toNat + len.toNat then .raised .bufferOverflow s
      else if s.hasCells .tx s.txOff.toNat bs.length then .ok () (s.appended len bs)
      else .stopped (.cellOutsideSpace .tx s.txOff.toNat bs.length) := by
  unfold appendFrame memWrite
  split
  · rfl
  · split <;> rfl

theorem appendFrame_match {s t : State} (h : AlikeWithFrame s t) {len : Half} {bs : List Byte}
    (hbs : bs.length = len.toNat) : (appendFrame len bs s).Match AlikeWithFrame (appendFrame len bs t) := by
  rw [appendFrame_eq, appendFrame_eq]
  unfold State.hasCells
  rw [State.capacity_tx, State.capacity_tx, ← h.frame.txLen, ← h.frame.txOff, ← h.alike.params]
  split
  · exact .raised _ h
  split
  next hfit _ => exact .ok () (h.appended hbs (Nat.not_lt.mp hfit))
  · exact .fault _

/-- The frame appended so far, read back. -/
theorem memRead_frame_match {s t : State} (h : AlikeWithFrame s t) :
    (memRead .tx 0 s.txOff.toNat s).Match AlikeWithFrame (memRead .tx 0 t.txOff.toNat t) := by
  rw [← h.frame.txOff]
  exact memRead_match h (congrArg Params.txCapacity h.alike.params) fun k hk => by
    rw [Nat.zero_add]
    exact h.frame.txb k hk

/-- The next bytes of the frame received. -/
theorem frameBytes_match {s t : State} (h : Alike s t) (hf : s.rxState = .filled) (len : Half) :
    (frameBytes len s).Match Alike (frameBytes len t) := by
  obtain ⟨hlen, hoff, hcells⟩ := h.rxFrame hf
  unfold frameBytes
  rw [← hlen, ← hoff]
  split
  · exact .raised _ h
  · exact memRead_match h (congrArg Params.rxCapacity h.params) fun k hk => hcells _ (by omega)

/-- The state check of SEND_CONTINUE and SEND_STOP, and what follows it in ASSEMBLING. -/
theorem requireAssembling_match {α : Type} {s t : State} {k : Unit → State → Ran α} (h : Alike s t)
    (hk : s.txState = .assembling → (k () s).Match Alike (k () t)) :
    ((requireAssembling s).andThen k).Match Alike ((requireAssembling t).andThen k) := by
  unfold requireAssembling
  rw [← h.txState]
  split
  next ha => exact hk ha
  · exact .raised _ h

/-- The state check of RECV_CONTINUE and RECV_STOP, and what follows it in FILLED. -/
theorem requireFilled_match {α : Type} {s t : State} {k : Unit → State → Ran α} (h : Alike s t)
    (hk : s.rxState = .filled → (k () s).Match Alike (k () t)) :
    ((requireFilled s).andThen k).Match Alike ((requireFilled t).andThen k) := by
  unfold requireFilled
  rw [← h.rxState]
  split
  next hf => exact hk hf
  · exact .raised _ h

/-- The same bytes stored from the start of `RXB`. -/
theorem Alike.storeRx {s t : State} (h : Alike s t) (bs : List Byte) :
    Alike (s.withCells .rx (s.rxb.writeBytes 0 bs)) (t.withCells .rx (t.rxb.writeBytes 0 bs)) :=
  { h with
    bus := { h.bus with }
    txFrame := fun ha => { h.txFrame ha with }
    rxFrame := fun hf => { h.rxFrame hf with
      rxb := fun a ha => readByte_writeBytes_congr bs (.inr ((h.rxFrame hf).rxb a ha)) } }

/-- The same `len` bytes stored from the start of `RXB`, and declared as the frame received. -/
theorem Alike.fillRx {s t : State} (h : Alike s t) {len : Half} {bs : List Byte} (hbs : bs.length = len.toNat) :
    Alike (startFilled len (s.withCells .rx (s.rxb.writeBytes 0 bs)))
      (startFilled len (t.withCells .rx (t.rxb.writeBytes 0 bs))) :=
  { h with
    bus := { h.bus with }
    txFrame := fun ha => { h.txFrame ha with }
    rxState := rfl
    rxFrame := fun _ => ⟨rfl, rfl, fun a (ha : a < len.toNat) => readByte_writeBytes_congr bs (.inl (by omega))⟩ }

/-! ## The commands -/

theorem execSendStart_match {s t : State} (h : Alike s t) (bus addr : Byte) (len : Half)
    (hs : CompletesOrHangs (execSendStart bus addr len s)) :
    OutcomesMatch Indistinguishable (execSendStart bus addr len s) (execSendStart bus addr len t) := by
  refine Ran.Match.finish ?_ hs
  rw [← h.params]
  split
  · exact .raised _ h
  · exact .ok _ (h.startAssembling len)

theorem execSendContinue_match {s t : State} (h : Alike s t) {z : Bool} {len : Half} {din : List Byte}
    (hwf : (Instr.sendContinue z len din).wellFormed = true) (hs : CompletesOrHangs (execSendContinue z len din s)) :
    OutcomesMatch Indistinguishable (execSendContinue z len din s) (execSendContinue z len din t) := by
  refine Ran.Match.finish (requireAssembling_match h fun ha => ?_) hs
  have happend := appendFrame_match ⟨h, h.txFrame ha⟩ (continueBytes_length hwf)
  exact (happend.andThen fun _ _ _ _ h => .ok plainOk h).mono fun _ _ h => h.alike

/-- SEND_STOP sends the same frame from both: it leaves ASSEMBLING with the same frame, and every sub-step keeps that. -/
theorem execSendStop_match {s t : State} (h : Alike s t) {p : Bool} {bus addr : Byte} {len : Half} {din : List Byte}
    (hwf : (Instr.sendStop p bus addr len din).wellFormed = true)
    (hs : CompletesOrHangs (execSendStop p bus addr len din s)) :
    OutcomesMatch Indistinguishable (execSendStop p bus addr len din s) (execSendStop p bus addr len din t) := by
  have hB := keptByBus_alikeWithFrame
  refine Ran.Match.finish (requireAssembling_match h fun ha => ?_) hs
  have hended : AlikeWithFrame (endAssembling s) (endAssembling t) := ⟨h.endAssembling, { h.txFrame ha with }⟩
  have hclosed : (if p then appendFrame len din (endAssembling s) else .ok () (endAssembling s)).Match AlikeWithFrame
      (if p then appendFrame len din (endAssembling t) else .ok () (endAssembling t)) := by
    cases p with
    | true => exact appendFrame_match hended (by simpa [Instr.wellFormed, dinFills] using hwf)
    | false => exact .ok () hended
  refine Ran.Match.mono (hclosed.andThen fun _ _ _ _ h => (connect_match hB h bus addr).andThen fun _ _ _ _ h =>
    (memRead_frame_match h).andThen fun bs u v _ h => ?_) fun _ _ h => h.alike
  rw [h.frame.txOff]
  exact (writeFully_match hB h bs v.txOff.toNat).andThen fun _ _ _ _ h => .ok _ h

theorem execSendSingle_match {s t : State} (h : Alike s t) (bus addr : Byte) (len : Half) (din : List Byte)
    (hs : CompletesOrHangs (execSendSingle bus addr len din s)) :
    OutcomesMatch Indistinguishable (execSendSingle bus addr len din s) (execSendSingle bus addr len din t) :=
  have hB := keptByBus_alike
  Ran.Match.finish ((connect_match hB h bus addr).andThen fun _ _ _ _ h =>
    (writeFully_match hB h din len.toNat).andThen fun _ _ _ _ h => .ok _ h) hs

theorem execWake_match {s t : State} (h : Alike s t) (bus addr : Byte)
    (hs : CompletesOrHangs (execWake bus addr s)) :
    OutcomesMatch Indistinguishable (execWake bus addr s) (execWake bus addr t) :=
  have hB := keptByBus_alike
  Ran.Match.finish ((connect_match hB h bus addr).andThen fun _ _ _ _ h =>
    (writeFully_match hB h wakeBytes 1).andThen fun _ _ _ _ h =>
    (delay_match hB h _).andThen fun _ _ _ _ h => .ok _ h) hs

/-- RECV_START leaves the same bytes in both: those read, or after a short read those drawn for the same history. -/
theorem execRecvStart_match {s t : State} (h : Alike s t) (bus addr : Byte) (len : Half)
    (hs : CompletesOrHangs (execRecvStart bus addr len s)) :
    OutcomesMatch Indistinguishable (execRecvStart bus addr len s) (execRecvStart bus addr len t) := by
  have hB := keptByBus_alike
  refine Ran.Match.finish ?_ hs
  rw [← h.params]
  split
  · exact .raised _ h
  refine (connect_match hB h bus addr).andThen fun _ u v _ h =>
    (readRaw_match hB h len.toNat).andThen fun nd u' v' hread h => ?_
  have hcap : u'.capacity .rx = v'.capacity .rx := congrArg Params.rxCapacity h.params
  split
  next hfull =>
    have hprog := readRaw_progresses len.toNat u
    rw [hread] at hprog
    obtain ⟨-, hlen⟩ := hprog
    exact memWrite_match hcap (.ok _ (h.fillRx (hlen hfull)))
  next =>
    rw [← h.bus.trace]
    exact memWrite_match hcap (.raised _ (h.storeRx _))

theorem execRecvContinue_match {s t : State} (h : Alike s t) (len : Half)
    (hs : CompletesOrHangs (execRecvContinue len s)) :
    OutcomesMatch Indistinguishable (execRecvContinue len s) (execRecvContinue len t) := by
  refine Ran.Match.finish (requireFilled_match h fun hf => (frameBytes_match h hf len).andThen fun d u v _ h => ?_) hs
  exact .ok _ (h.takeRx len)

theorem execRecvStop_match {s t : State} (h : Alike s t) (len : Half)
    (hs : CompletesOrHangs (execRecvStop len s)) :
    OutcomesMatch Indistinguishable (execRecvStop len s) (execRecvStop len t) := by
  refine Ran.Match.finish (requireFilled_match h fun hf => (frameBytes_match h hf len).andThen fun d u v _ h => ?_) hs
  exact .ok _ h.endFilled

/-- RECV_SINGLE keeps nothing of its reads but the response. -/
theorem execRecvSingle_match {s t : State} (h : Alike s t) (bus addr : Byte)
    (hs : CompletesOrHangs (execRecvSingle bus addr s)) :
    OutcomesMatch Indistinguishable (execRecvSingle bus addr s) (execRecvSingle bus addr t) := by
  have hB := keptByBus_alike
  refine Ran.Match.finish ((connect_match hB h bus addr).andThen fun _ _ _ _ h =>
    (readFully_match hB h 1).andThen fun _ _ _ _ h => (readFully_match hB h 2).andThen fun b u v _ h => ?_) hs
  rw [← h.params]
  split
  · exact .raised _ h
  · exact (readFully_match hB h (payloadLength b)).andThen fun _ _ _ _ h => .ok _ h

/-- In states that look alike every command but CRC_ACCUMULATE, which shows `CRC_REG`, has matching outcomes. -/
theorem exec_match {i : Instr} {s t : State} (hwf : i.wellFormed = true) (hi : ∀ l d, i ≠ .crcAccumulate l d)
    (hs : CompletesOrHangs (exec i s)) (h : Alike s t) : OutcomesMatch Indistinguishable (exec i s) (exec i t) := by
  cases i with
  | sendStart bus addr len => exact execSendStart_match h bus addr len hs
  | sendContinue z len din => exact execSendContinue_match h hwf hs
  | sendStop p bus addr len din => exact execSendStop_match h hwf hs
  | sendSingle bus addr len din => exact execSendSingle_match h bus addr len din hs
  | wake bus addr => exact execWake_match h bus addr hs
  | recvStart bus addr len => exact execRecvStart_match h bus addr len hs
  | recvContinue len => exact execRecvContinue_match h len hs
  | recvStop len => exact execRecvStop_match h len hs
  | recvSingle bus addr => exact execRecvSingle_match h bus addr hs
  | crcCalculate len din => exact Ran.Match.finish (.ok _ (h.withCrc _)) hs
  | crcAccumulate len din => exact absurd rfl (hi len din)

/-- Settles O53: the sub-steps of a command run alike in the two states, and in a good state it completes or hangs. -/
theorem unspecifiedValuesAreInvisible : Obligations.UnspecifiedValuesAreInvisible :=
  fun _ _ _ hwf hi hs _ h => exec_match hwf hi (exec_completesOrHangs hs hwf) (alike_iff_indistinguishable.mpr h)

end Sys2Proof.Machine

/-! PROOF. Bus calls that are never answered (20_memory.md R66; 60_exceptions.md R220): a transfer or a bus handle that
makes one stops in the state of the call, and each bus command stops where its sub-step does. -/

namespace Sys2Proof.Machine

open Sys2Proof.Safety

/-! ## The calls -/

theorem writeFully_of_never {bs : List Byte} {s : State} (h : writeReply bs s = .never) (want : Nat) :
    writeFully bs want s = .stopped (.stuck s (.write bs)) := by
  rw [writeFully, writeRaw, h]
  rfl

theorem readRaw_of_never {len : Nat} {s : State} (h : readReply len s = .never) :
    readRaw len s = .stopped (.stuck s (.read len)) := by
  rw [readRaw, h]

theorem readFully_of_never {len : Nat} {s : State} (h : readReply len s = .never) :
    readFully len s = .stopped (.stuck s (.read len)) := by
  rw [readFully, readRaw_of_never h, Ran.andThen_stopped]

/-- A bus handle stops at its open or, after its open, at its set-address. -/
theorem connect_of_handleUnanswered {bus addr : Byte} {s u : State} {c : BusCall}
    (h : HandleUnanswered bus addr s u c) : connect bus addr s = .stopped (.stuck u c) := by
  rcases h with ⟨ho, hr, rfl, rfl⟩ | ⟨ho, hc, hr, rfl, rfl⟩
  · rw [connect, ensureOpen, if_neg (by simp [ho]), callOpen, hr]
    rfl
  · rw [connect_of_opens addr ho, ensureAddressed, if_neg (mt (addressCached_afterOpen bus addr s).mp hc), callSetAddr,
      hr]
    rfl

/-! ## The commands whose bus handle comes first -/

/-- A bus command other than SEND_STOP that passes its own checks begins with its bus handle, and stops where
that does. -/
theorem exec_of_connect_stopped {i : Instr} {bus addr : Byte} {s : State} {f : Fault}
    (hi : busFields i = some (bus, addr)) (hown : ¬ failsOwnChecks i s)
    (hstop : ∀ p b a len din, i ≠ .sendStop p b a len din) (h : connect bus addr s = .stopped f) :
    exec i s = .fault f := by
  cases i with
  | sendStop p b a len din => exact absurd rfl (hstop p b a len din)
  | sendSingle b a len din => cases hi; rw [exec, execSendSingle, h]; rfl
  | wake b a => cases hi; rw [exec, execWake, h]; rfl
  | recvStart b a len =>
    have hlen : ¬ s.params.rxCapacity < len.toNat := hown
    cases hi; rw [exec, execRecvStart, if_neg hlen, h]; rfl
  | recvSingle b a => cases hi; rw [exec, execRecvSingle, h]; rfl
  | sendStart | sendContinue | recvContinue | recvStop | crcCalculate | crcAccumulate => cases hi

theorem execSendSingle_of_never {bus addr : Byte} {din : List Byte} {s v : State} (len : Half)
    (hcon : connect bus addr s = .ok () v) (hn : writeReply din v = .never) :
    execSendSingle bus addr len din s = .fault (.stuck v (.write din)) := by
  rw [execSendSingle, hcon, Ran.andThen_ok, writeFully_of_never hn]
  rfl

theorem execWake_of_never {bus addr : Byte} {s v : State} (hcon : connect bus addr s = .ok () v)
    (hn : writeReply [0x00] v = .never) : execWake bus addr s = .fault (.stuck v (.write [0x00])) := by
  rw [execWake, hcon, Ran.andThen_ok, wakeBytes, writeFully_of_never hn]
  rfl

theorem execRecvStart_of_never {bus addr : Byte} {len : Half} {s v : State} (hcon : connect bus addr s = .ok () v)
    (hlen : len.toNat ≤ s.params.rxCapacity) (hn : readReply len.toNat v = .never) :
    execRecvStart bus addr len s = .fault (.stuck v (.read len.toNat)) := by
  rw [execRecvStart, if_neg (by omega), hcon, Ran.andThen_ok, readRaw_of_never hn]
  rfl

theorem execRecvSingle_of_never_header {bus addr : Byte} {s v : State} (hcon : connect bus addr s = .ok () v)
    (hn : readReply 1 v = .never) : execRecvSingle bus addr s = .fault (.stuck v (.read 1)) := by
  rw [execRecvSingle, hcon, Ran.andThen_ok, readFully_of_never hn]
  rfl

theorem execRecvSingle_of_never_length {bus addr : Byte} {h : List Byte} {s v v1 : State}
    (hcon : connect bus addr s = .ok () v) (hh : ReadsFull 1 v h v1) (hn : readReply 2 v1 = .never) :
    execRecvSingle bus addr s = .fault (.stuck v1 (.read 2)) := by
  rw [execRecvSingle, hcon, Ran.andThen_ok, readFully_of_readsFull hh, Ran.andThen_ok, readFully_of_never hn]
  rfl

theorem finish_readPayload_of_never (h : List Byte) {b : List Byte} {s : State}
    (hmax : payloadLength b ≤ s.params.rsMaxPayload) (hn : readReply (payloadLength b) s = .never) :
    finish (readPayload h b s) = .fault (.stuck s (.read (payloadLength b))) := by
  rw [readPayload, if_neg (by omega), readFully_of_never hn]
  rfl

/-- RECV_SINGLE that reads a header and a length within the bound, and gets no answer to its third read. -/
theorem execRecvSingle_of_never_payload {bus addr : Byte} {h b : List Byte} {s v v1 v2 : State}
    (hcon : connect bus addr s = .ok () v) (hh : ReadsFull 1 v h v1) (hb : ReadsFull 2 v1 b v2)
    (hmax : payloadLength b ≤ s.params.rsMaxPayload) (hn : readReply (payloadLength b) v2 = .never) :
    execRecvSingle bus addr s = .fault (.stuck v2 (.read (payloadLength b))) := by
  have hbus : OnlyBus s v2 :=
    ((connect_eq_ok hcon).1.trans (onlyBus_of_readsFull hh)).trans (onlyBus_of_readsFull hb)
  rw [execRecvSingle_of_readsFull hcon hh hb]
  exact finish_readPayload_of_never h (by rwa [hbus.params]) hn

/-! ## SEND_STOP -/

/-- A bus handle that stops changes nothing but the bus up to there. -/
theorem onlyBus_of_connect_stuck {bus addr : Byte} {s u : State} {c : BusCall}
    (h : connect bus addr s = .stopped (.stuck u c)) : OnlyBus s u := by
  obtain ⟨t, hb, ⟨e, -⟩ | ⟨e, -⟩⟩ := connect_eq_stopped h <;> cases e <;> exact hb

/-- The bus handle stops in the closed frame as it does before. -/
theorem connect_closed_stuck {bus addr : Byte} {s u : State} {c : BusCall}
    (h : connect bus addr s = .stopped (.stuck u c)) (p : Bool) (len : Half) (din : List Byte) :
    connect bus addr (s.closed p len din) = .stopped (.stuck (u.closed p len din) c) := by
  have hf := leavesBus_closed p len din
  have hs : s.closed p len din = graft (s.closed p len din) s := hf.of_onlyBus (.refl s)
  have hu : u.closed p len din = graft (s.closed p len din) u := hf.of_onlyBus (onlyBus_of_connect_stuck h)
  rw [hs, connect_graft, h, hu]
  rfl

theorem writeReply_closed (bs : List Byte) (s : State) (p : Bool) (len : Half) (din : List Byte) :
    writeReply bs (s.closed p len din) = writeReply bs s := by
  cases p <;> rfl

theorem finish_flushFrame_of_connect_stopped {bus addr : Byte} {s : State} {f : Fault}
    (h : connect bus addr s = .stopped f) : finish (flushFrame bus addr s) = .fault f := by
  rw [flushFrame, h]
  rfl

/-- A frame whose bus handle succeeds and whose write is never answered stops at the write of all its bytes. -/
theorem finish_flushFrame_of_never {bus addr : Byte} {bs : List Byte} {s v : State}
    (hcon : connect bus addr s = .ok () v) (hcells : s.hasCells .tx 0 s.txOff.toNat)
    (hbs : s.txb.readBytes 0 s.txOff.toNat = some bs) (hn : writeReply bs v = .never) :
    finish (flushFrame bus addr s) = .fault (.stuck v (.write bs)) := by
  obtain ⟨hbus, -, -, -, -⟩ := connect_eq_ok hcon
  have hread : memRead .tx 0 v.txOff.toNat v = .ok bs v := by
    refine memRead_ok ?_ ?_
    · simpa only [State.hasCells, State.capacity_tx, hbus.params, hbus.txOff] using hcells
    · rwa [State.cells_tx, hbus.txb, hbus.txOff]
  rw [flushFrame, hcon, Ran.andThen_ok, hread, Ran.andThen_ok, writeFully_of_never hn]
  rfl

/-- The frame a SEND_STOP closes lies in `TXB`. -/
theorem closed_hasCells {p : Bool} {bus addr : Byte} {len : Half} {din : List Byte} {s : State}
    (hwf : (Instr.sendStop p bus addr len din).wellFormed = true)
    (hfit : s.txOff.toNat + len.toNat ≤ s.txLen.toNat) (hcap : s.txLen.toNat ≤ s.params.txCapacity) :
    (s.closed p len din).hasCells .tx 0 (s.closed p len din).txOff.toNat := by
  obtain ⟨hoff, -⟩ := closed_append hwf fun _ => hfit
  refine .inr ?_
  rw [State.capacity_tx, State.closed_params, hoff, Nat.zero_add]
  exact hfit.trans hcap

/-- Settles O50: SEND_STOP closes its frame before its bus handle, the four others begin with theirs, and then each
makes its transfers. -/
theorem unansweredCallHangs : Obligations.UnansweredCallHangs := by
  refine ⟨fun i bus addr s u c hi hown hstop hun =>
    exec_of_connect_stopped hi hown hstop (connect_of_handleUnanswered hun), ?_, ?_⟩
  · intro p bus addr len din old s hwf ha hfit hcap hlen hold
    obtain ⟨hoff, hstored⟩ := closed_append hwf fun _ => hfit
    have hsplit := execSendStop_of_fits bus addr ha (sendStop_fits hwf hfit hcap)
    refine ⟨_, _, hoff, hstored, fun u c hun => ?_, fun s1 hcon hn => ?_⟩
    · have hstuck := connect_of_handleUnanswered hun
      rw [exec, hsplit, finish_flushFrame_of_connect_stopped (connect_closed_stuck hstuck p len din),
        closed_of_onlyBus (onlyBus_of_connect_stuck hstuck)]
    · have hcon' := connect_closed_ok hcon p len din
      have hframe := closed_frame hwf (fun _ => hfit) hlen hold
      have hn' := (writeReply_closed _ s1 p len din).trans hn
      rw [exec, hsplit, finish_flushFrame_of_never hcon' (closed_hasCells hwf hfit hcap) hframe hn',
        closed_of_onlyBus (connect_eq_ok hcon).1]
      rfl
  · exact fun bus addr len din s s1 hcon => ⟨execSendSingle_of_never len hcon, execWake_of_never hcon,
      execRecvStart_of_never hcon, execRecvSingle_of_never_header hcon, fun h s2 hh =>
      ⟨execRecvSingle_of_never_length hcon hh, fun hi lo s3 hb => by
        rw [← payloadLength_pair]
        exact execRecvSingle_of_never_payload hcon hh hb⟩⟩

end Sys2Proof.Machine

/-! PROOF. Seven commands of the test vectors, decoded (30_encoding.md R81 to R87; 95_test_vectors.md), and the step
that finds no command (10_state.md R21). -/

namespace Sys2Proof.Machine

/-- Words that are those of a well-formed instruction decode to it. -/
theorem decode_of_encode_eq {i : Instr} {c : Command} (hwf : i.wellFormed = true) (h : encode i = c) :
    decode c = .ok i := by
  rw [← h]
  exact decodeReadsEncodeBack i hwf

/-- Settles O5: the seven commands are the words of their instructions, which are well-formed. -/
theorem specWordsDecode : Obligations.SpecWordsDecode := by
  refine ⟨?_, ?_, ?_, ?_, ?_, ?_, ?_⟩ <;> exact decode_of_encode_eq (by decide) (by decide)

/-- Settles O7: there is no command to take. -/
theorem stepWithoutCommandWaits : Obligations.StepWithoutCommandWaits := by
  intro s hp
  simp only [step, takeCommand, hp]

end Sys2Proof.Machine
